-- ==== Sys2Proof/Word.lean ====
section
/-! DEFINITION. The words of the machine: a byte of a serial frame, a 32-bit line position, a 32-bit counter. -/

namespace Sys2Proof

/-- One byte on a serial line (R162). -/
abbrev Byte := BitVec 8

/-- A line position in encoder counts, which wraps modulo 2^32 (R3, R4). -/
abbrev Position := BitVec 32

/-- A counter or exit number that wraps modulo 2^32 (R78, R138). -/
abbrev Counter := BitVec 32

end Sys2Proof
end

