-- ==== Sys2Proof/Syntax.lean ====
section
/-! DEFINITION. The commands of the block, one constructor for each row of the table of operations and events, with the
data they carry. A request row is the taking of a frame that waits in a port's input buffer (R166); its parameters
stand in that frame's payload, so the row itself carries no more than the port (log entry 1). -/

namespace Sys2Proof

/-- The two encoder phases ENCA and ENCB; `true` is high (R1). -/
structure PhasePair where
  a : Bool
  b : Bool
  deriving DecidableEq, Repr

/-- The six station ports, by their numbers (R93). -/
inductive StationPort where
  | p1 | p2 | p3 | p4 | p5 | p6
  deriving DecidableEq, Repr

/-- The seven serial ports: port 0 is the supervisor's (R167). -/
inductive Port where
  | supervisor
  | station (p : StationPort)
  deriving DecidableEq, Repr

/-- One received character: a byte, or a bad character, whose stop bit was low; a break counts as bad (R162). -/
inductive Character where
  | byte (b : Byte)
  | bad
  deriving DecidableEq, Repr

/-- One sheet group of a recipe, fields 14 to 17 (section 4.3). -/
structure SheetGroup where
  number : Nat
  count : Nat
  nominal : Nat
  tolerance : Nat
  deriving DecidableEq, Repr

/-- The recipe record, fields 1 to 17 in order of identifier (section 4.3). Every field is kept as a request carries
it, before and after the range check of R56; `styleCode` is the byte of field 5 (NONE 0, CUT 1, DRILL 2). -/
structure Recipe where
  name : List Byte
  edge : Nat
  pitch : Nat
  margin : Nat
  styleCode : Nat
  gapWidth : Nat
  gapClearance : Nat
  drillX : Nat
  drillY : Nat
  liftCapacity : Nat
  liftSheets : Nat
  target : Nat
  groupCount : Nat
  groups : List SheetGroup
  deriving DecidableEq, Repr

/-- What the store reads back from the slot it has written, at the end of a program cycle (R158): the record as it was
carried, or some other record. -/
inductive ReadBack where
  | asCarried
  | record (r : Recipe)
  deriving DecidableEq, Repr

/-- The commands. -/
inductive Instr where
  /-- QUADRATURE_EDGE: a new phase pair at ENCA and ENCB (R1). -/
  | quadratureEdge (pair : PhasePair)
  /-- RESET: power-on or a low on RESETN; `pair` is present as reset is released (R9, R144). -/
  | reset (pair : PhasePair)
  /-- SUPPLY_LOSS (R161). -/
  | supplyLoss
  /-- FRAME_RECEIVED: a character by which a receiver ends a frame (R164, R165). -/
  | frameReceived (port : Port) (char : Character)
  /-- FRAME_GAP_TIMEOUT: the gap within a frame exceeds 4 byte times (R164). -/
  | frameGapTimeout (port : Port)
  /-- ANSWER_SENT: the check byte of the answer at the head has been sent (R166). -/
  | answerSent (port : Port)
  /-- UNKNOWN_KIND: a frame is taken whose kind is no request of its port (R167). -/
  | unknownKind (port : Port)
  /-- SET_LINE (R95). -/
  | setLine
  /-- SET_STATION (R94). -/
  | setStation
  /-- SET_DIE (R54). -/
  | setDie
  /-- SET_RULES (R128). -/
  | setRules
  /-- STORE (R156). -/
  | store
  /-- ERASE (R157). -/
  | erase
  /-- PROGRAM_CYCLE_END: the cycle in flight ends and the slot reads back so (R158). -/
  | programCycleEnd (readBack : ReadBack)
  /-- READ_RECIPE (R160). -/
  | readRecipe
  /-- STAGE (R79). -/
  | stage
  /-- STAGE_INLINE (R80). -/
  | stageInline
  /-- DISCARD (R82). -/
  | discard
  /-- CHANGEOVER (R84). -/
  | changeover
  /-- END_JOB (R90). -/
  | endJob
  /-- STOP (R148). -/
  | stop
  /-- RESUME (R149). -/
  | resume
  /-- PURGE (R35). -/
  | purge
  /-- MARK_SAMPLE (R37). -/
  | markSample
  /-- READ_STATUS (R154). -/
  | readStatus
  /-- READ_SET (R36). -/
  | readSet
  /-- READ_PLAN (R77). -/
  | readPlan
  /-- READ_HISTORY (R140). -/
  | readHistory
  /-- REWIND (R141). -/
  | rewind
  /-- READ_PORT_STATUS (R170). -/
  | readPortStatus
  /-- OPEN (R22). -/
  | openSet (port : StationPort)
  /-- SHEET (R27). -/
  | sheet (port : StationPort)
  /-- CLOSE (R29). -/
  | closeSet (port : StationPort)
  /-- ABANDON (R32). -/
  | abandon (port : StationPort)
  /-- EDGE (R105). -/
  | edge (port : StationPort)
  /-- LIFT (R119). -/
  | lift (port : StationPort)
  /-- DONE (R120). -/
  | done (port : StationPort)
  /-- FAULT (R121). -/
  | fault (port : StationPort)
  /-- DIVERTED (R131). -/
  | diverted (port : StationPort)
  /-- CHARACTER_RECEIVED: a character that neither completes nor drops a frame (R164). -/
  | characterReceived (port : Port) (char : Character)
  deriving DecidableEq, Repr

end Sys2Proof
end

