-- ==== Sys2Proof/Decode.lean ====
section
/-! DEFINITION. The table of operations and events gives no row any bits: every row is a command, not a word. -/

namespace Sys2Proof

/-- The command that a word of the table's bits spells: none, since no row has bits (log entry 19). -/
def decodeTableWord (_nbits _w : Nat) : Option Instr := none

end Sys2Proof
end

