-- ==== Sys2Proof/Config.lean ====
section
/-! DEFINITION. The sizes and limits of the part that the manual fixes. The manual calls no value undefined, so no
free value stands here. -/

namespace Sys2Proof.Config

/-- Set records the tracking queue holds at most (R16). -/
abbrev queueDepth : Nat := 16

/-- Sheet entries a set record holds at most; a SHEET index is below it (R24). -/
abbrev sheetLimit : Nat := 32

/-- Lifts a lift plan holds at most (R49). -/
abbrev liftLimit : Nat := 8

/-- The greatest caliper kept of a reading (R40). -/
abbrev caliperMax : Nat := 4000

/-- The largest set number and job number; the next after it is 1 (R17, R85). -/
abbrev numberMax : Nat := 65535

/-- The rise of a consecutive-miss count that hands over MISS_RUN (R100). -/
abbrev missRun : Nat := 3

/-- Verdict rules the list holds at most (R127). -/
abbrev ruleLimit : Nat := 8

/-- The reject-run count at which it stays (R135). -/
abbrev rejectRunMax : Nat := 255

/-- Exit history entries kept (R138). -/
abbrev historyDepth : Nat := 32

/-- Recipe store slots (R155). -/
abbrev storeSlots : Nat := 16

/-- Complete frames an input buffer holds (R165). -/
abbrev bufferDepth : Nat := 4

/-- Answers an answer queue holds (R166). -/
abbrev answerDepth : Nat := 4

end Sys2Proof.Config
end

