-- ==== Sys2Proof/Machine/State.lean ====
section
/-! DEFINITION. Everything the part holds, block by block, as plain data; what a step can stop with; the state right
after reset. -/

namespace Sys2Proof.Machine

/-! ### Data by port -/

/-- One value for each of ports 1 to 6. -/
structure PerStation (α : Type) where
  p1 : α
  p2 : α
  p3 : α
  p4 : α
  p5 : α
  p6 : α
  deriving DecidableEq, Repr

/-- One value for each of ports 0 to 6. -/
structure PerPort (α : Type) where
  supervisor : α
  stations : PerStation α
  deriving DecidableEq, Repr

/-! ### Position counter (chapter 1) -/

/-- The direction of a quadrature edge or a count (R1, R2). -/
inductive Direction where
  | forward | reverse
  deriving DecidableEq, Repr

/-- The position counter (R1 to R9). The divider setting and the reverse limit stand in the line configuration; the
reverse depth is computed from P and T (R5, log entry 12). -/
structure PositionCounter where
  /-- raw position P -/
  raw : Position
  /-- tracking position T -/
  tracking : Position
  /-- divider tally -/
  tally : Nat
  /-- direction of the edges tallied; absent after reset -/
  tallyDirection : Option Direction
  /-- REVERSE arming indication -/
  armed : Bool
  /-- ENCODER latch -/
  encoderLatch : Bool
  /-- reference phase pair -/
  reference : PhasePair
  deriving DecidableEq, Repr

/-! ### Set tracker (chapters 2, 3, 6) -/

/-- The five station roles that have a window, in the role order of R99. -/
inductive StationRole where
  | punch | notch | drill | binder | gate
  deriving DecidableEq, Repr

/-- A role of the station table (R93). -/
inductive Role where
  | none
  | collator
  | station (r : StationRole)
  deriving DecidableEq, Repr

/-- One entry of the station table: role, arrive offset A, close offset Z, tolerance Tol (R93). -/
structure Station where
  role : Role
  arrive : Nat
  close : Nat
  tol : Nat
  deriving DecidableEq, Repr

/-- The line configuration (R93). -/
structure LineConfig where
  divider : Nat
  reverseLimit : Nat
  spacing : Nat
  rejectLimit : Nat
  deriving DecidableEq, Repr

/-- The plan slots (R78). -/
inductive SlotId where
  | a | b
  deriving DecidableEq, Repr

/-- The fifteen check names (section 2.4), in the order of their bits (section 12.6). -/
inductive Check where
  | short | long | gaugeGap | thin | thick | double | liftOverload | liftLimit | punchFault | finishFault
  | bindFault | missed | unconfirmed | crowded | sample
  deriving DecidableEq, Repr

/-- A set of check names: a set's check word (R20), or the mask of a verdict rule (R127). -/
structure CheckWord where
  short : Bool := false
  long : Bool := false
  gaugeGap : Bool := false
  thin : Bool := false
  thick : Bool := false
  double : Bool := false
  liftOverload : Bool := false
  liftLimit : Bool := false
  punchFault : Bool := false
  finishFault : Bool := false
  bindFault : Bool := false
  missed : Bool := false
  unconfirmed : Bool := false
  crowded : Bool := false
  sample : Bool := false
  deriving DecidableEq, Repr

/-- An outlet the gate can take (R127, R131). -/
inductive GateOutlet where
  | accept | reject | rework
  deriving DecidableEq, Repr

/-- The state of a station progress entry (R98). DONE holds the taken outlet at the gate, FAULT its code. -/
inductive Progress where
  | waiting | passing | atStation | passed | skipped | withheld | missed
  | done (taken : Option GateOutlet)
  | fault (code : Nat)
  | unconfirmed
  deriving DecidableEq, Repr

/-- A set's progress entries, one for each role present in the station table (R99, log entries 20, 25). -/
structure ProgressEntries where
  punch : Option Progress
  notch : Option Progress
  drill : Option Progress
  binder : Option Progress
  gate : Option Progress
  deriving DecidableEq, Repr

/-- The class of a sheet (R41). -/
inductive SheetClass where
  | ok | thin | thick | double | unread
  deriving DecidableEq, Repr

/-- A sheet entry; its sheet index is its place in the sheet list (section 2.2, log entry 12). -/
structure SheetEntry where
  measured : Option Nat
  sheetClass : SheetClass
  planning : Nat
  deriving DecidableEq, Repr

/-- A lift of a lift plan (R50). -/
structure Lift where
  first : Nat
  count : Nat
  sum : Nat
  overload : Bool
  deriving DecidableEq, Repr

/-- A set's state; a TRAVELLING set has its entry position E (R29). -/
inductive SetState where
  | gathering
  | travelling (entry : Position)
  deriving DecidableEq, Repr

/-- A set record (section 2.2). -/
structure SetRecord where
  number : Nat
  slot : SlotId
  state : SetState
  sheets : List SheetEntry
  liftPlan : Option (List Lift)
  liftsDone : Nat
  progress : ProgressEntries
  checks : CheckWord
  commanded : Option GateOutlet
  taken : Option GateOutlet
  deriving DecidableEq, Repr

/-- The set tracker (R16 to R23, R93, R100). -/
structure SetTracker where
  /-- tracking queue, head first -/
  queue : List SetRecord
  nextNumber : Nat
  lastOpened : Option Nat
  stations : PerStation Station
  lineConfig : LineConfig
  /-- consecutive-miss counts -/
  missCounts : PerStation Nat
  deriving DecidableEq, Repr

/-! ### Plan unit (chapters 4, 5) -/

/-- The die record: pin count D, pin pitch Pd, pin-0 offset O0, guide travel Smax (R53). -/
structure Die where
  pins : Nat
  pitch : Nat
  offset : Nat
  travel : Nat
  deriving DecidableEq, Repr

/-- A wire segment: first hole position and loop count (R72). -/
structure Segment where
  first : Nat
  loops : Nat
  deriving DecidableEq, Repr

/-- A hole plan record (R75). In the pin map `true` is ENGAGED. -/
structure HolePlan where
  holes : Nat
  clamped : Bool
  leftMargin : Nat
  rightMargin : Nat
  firstPin : Nat
  guide : Nat
  /-- removed run: first hole index and hole count -/
  removed : Option (Nat × Nat)
  segments : List Segment
  pins : List Bool
  /-- notch position and width -/
  notch : Option (Nat × Nat)
  /-- drill x and y -/
  drill : Option (Nat × Nat)
  deriving DecidableEq, Repr

/-- Where a slot's recipe came from (R78). -/
inductive Source where
  | store (number : Nat)
  | inlined
  deriving DecidableEq, Repr

/-- A slot's six counters (R78). -/
structure SlotCounters where
  opened : Counter := 0
  accepted : Counter := 0
  rejected : Counter := 0
  reworked : Counter := 0
  unresolved : Counter := 0
  withdrawn : Counter := 0
  deriving DecidableEq, Repr

/-- What a slot that is not FREE holds beside its job number (R78). -/
structure Job where
  recipe : Recipe
  plan : HolePlan
  source : Source
  target : Nat
  inQueue : Nat
  counters : SlotCounters
  deriving DecidableEq, Repr

/-- A plan slot (R78); `number` is the job number, absent while STAGED. -/
inductive PlanSlot where
  | free
  | staged (job : Job)
  | current (number : Nat) (job : Job)
  | draining (number : Nat) (job : Job)
  deriving DecidableEq, Repr

/-- The plan unit (R53, R78, R85). -/
structure PlanUnit where
  die : Option Die
  slotA : PlanSlot
  slotB : PlanSlot
  jobCounter : Nat
  deriving DecidableEq, Repr

/-! ### Verdict unit (chapter 8) -/

/-- The test of a verdict rule (R127). -/
inductive RuleTest where
  | any | all
  deriving DecidableEq, Repr

/-- A verdict rule (R127). -/
structure VerdictRule where
  test : RuleTest
  mask : CheckWord
  outlet : GateOutlet
  deriving DecidableEq, Repr

/-- The outlet under which a set leaves the queue (R133). -/
inductive Outlet where
  | accept | reject | rework | unresolved | abandoned | purged
  deriving DecidableEq, Repr

/-- An exit history entry (R137). -/
structure HistoryEntry where
  exitNumber : Counter
  set : Nat
  job : Nat
  outlet : Outlet
  commanded : Option GateOutlet
  checks : CheckWord
  entry : Option Position
  sheetCount : Nat
  deriving DecidableEq, Repr

/-- The verdict unit (R127, R135, R138, R139). -/
structure VerdictUnit where
  rules : List VerdictRule
  rejectRun : Nat
  /-- exit history, oldest first -/
  history : List HistoryEntry
  /-- next exit number X -/
  nextExit : Counter
  readPointer : Counter
  deriving DecidableEq, Repr

/-! ### Recipe store (chapter 10) -/

/-- A store slot (R155). -/
inductive StoreSlot where
  | empty
  | valid (r : Recipe)
  | corrupt
  deriving DecidableEq, Repr

/-- The kind of a program cycle, STORE with its copy of the record as carried (R155). -/
inductive CycleKind where
  | store (copy : Recipe)
  | erase
  deriving DecidableEq, Repr

/-- A program cycle in flight (R155). Slot number n is `Fin` value n - 1. -/
structure ProgramCycle where
  kind : CycleKind
  slot : Fin 16
  deriving DecidableEq, Repr

/-- The kind of a cycle as the last result records it (R155). -/
inductive CycleName where
  | store | erase
  deriving DecidableEq, Repr

/-- The outcome of a cycle (R155). -/
inductive CycleOutcome where
  | empty | valid | corrupt
  deriving DecidableEq, Repr

/-- The result of a program cycle (R155). -/
structure CycleResult where
  kind : CycleName
  slot : Fin 16
  outcome : CycleOutcome
  deriving DecidableEq, Repr

/-- The recipe store (R155). The store state is PROGRAMMING when `cycle` is present, READY otherwise. -/
structure RecipeStore where
  slots : Vector StoreSlot 16
  cycle : Option ProgramCycle
  lastResult : Option CycleResult
  deriving DecidableEq, Repr

/-! ### Line control (chapter 9) -/

/-- The return state (R144). -/
inductive ReturnState where
  | run | drain
  deriving DecidableEq, Repr

/-- The line state; HALT holds the return state, which is absent in every other state (R144). -/
inductive LineState where
  | unconfigured | idle | run | drain
  | halt (ret : ReturnState)
  deriving DecidableEq, Repr

/-- The halt causes (R144), in the order of their bits (section 12.6). -/
inductive Cause where
  | operator | reverse | missRun | gateMissed | gateUnconfirmed | gateMismatch | rejectRun
  deriving DecidableEq, Repr

/-- The halt cause set (R144). -/
structure CauseSet where
  operator : Bool := false
  reverse : Bool := false
  missRun : Bool := false
  gateMissed : Bool := false
  gateUnconfirmed : Bool := false
  gateMismatch : Bool := false
  rejectRun : Bool := false
  deriving DecidableEq, Repr

/-- Line control (R144). -/
structure LineControl where
  state : LineState
  causes : CauseSet
  jobDone : Bool
  storeEnd : Bool
  /-- LSTOP output, `true` asserted -/
  lstop : Bool
  /-- ATTN output, `true` asserted -/
  attn : Bool
  deriving DecidableEq, Repr

/-! ### Ports (chapter 11) -/

/-- The state of a port's receiver (R164) with the capture position (R14) and what it has kept of the frame. -/
inductive Receiver where
  | hunt
  | length (capture : Position)
  /-- `bytes` are the kind and payload bytes received so far, in order -/
  | body (capture : Position) (length : Nat) (bytes : List Byte)
  | check (capture : Position) (length : Nat) (bytes : List Byte)
  deriving DecidableEq, Repr

/-- A complete frame in an input buffer (R165); its length is that of kind and payload (log entry 12). -/
structure Frame where
  kind : Byte
  payload : List Byte
  capture : Position
  deriving DecidableEq, Repr

/-- One port (R164 to R166, R170). An answer is held as its bytes on the line, A5h to check byte (R163). -/
structure PortState where
  receiver : Receiver
  /-- input buffer, oldest first -/
  buffer : List Frame
  /-- answer queue, head first -/
  answers : List (List Byte)
  frameError : Bool
  overrun : Bool
  unmatchedEdge : Bool
  deriving DecidableEq, Repr

/-! ### The machine -/

/-- The state of the part. -/
structure State where
  position : PositionCounter
  tracker : SetTracker
  plan : PlanUnit
  verdict : VerdictUnit
  store : RecipeStore
  line : LineControl
  ports : PerPort PortState
  /-- the commands that wait, first in first out (log entry 1) -/
  pending : List Instr
  deriving DecidableEq, Repr

/-- What stops the machine: nothing does. The manual describes no event that stops the part (log entry 23), so the type
has no constructor and no meaning raises one. -/
inductive Fault : Type
  deriving DecidableEq, Repr

/-- Why a command has no meaning. -/
inductive Refusal where
  /-- The named command is not modelled. Raised by no arm of `exec`: every row has its meaning. Safe. -/
  | notModelled (mnemonic : String)
  deriving DecidableEq, Repr

/-- The outcome of one command. -/
abbrev Result := Host.Outcome State Fault Refusal

/-! ### Reset values -/

/-- The same value at each of ports 1 to 6. -/
def PerStation.replicate {α : Type} (v : α) : PerStation α := ⟨v, v, v, v, v, v⟩

/-- The position counter after reset, with the phase pair sampled as reset is released (R9). -/
def PositionCounter.reset (pair : PhasePair) : PositionCounter where
  raw := 0
  tracking := 0
  tally := 0
  tallyDirection := none
  armed := true
  encoderLatch := false
  reference := pair

/-- A station table entry after reset (R93). -/
def Station.reset : Station := ⟨.none, 0, 0, 0⟩

/-- The set tracker after reset (R16, R17, R23, R93, R100). -/
def SetTracker.reset : SetTracker where
  queue := []
  nextNumber := 1
  lastOpened := none
  stations := .replicate .reset
  lineConfig := ⟨1, 200, 2000, 0⟩
  missCounts := .replicate 0

/-- The plan unit after reset (R53, R78). -/
def PlanUnit.reset : PlanUnit where
  die := none
  slotA := .free
  slotB := .free
  jobCounter := 1

/-- The verdict unit after reset (R143). -/
def VerdictUnit.reset : VerdictUnit where
  rules := []
  rejectRun := 0
  history := []
  nextExit := 1
  readPointer := 1

/-- Line control after reset (R144). -/
def LineControl.reset : LineControl where
  state := .unconfigured
  causes := {}
  jobDone := false
  storeEnd := false
  lstop := false
  attn := false

/-- A port after reset (R171). -/
def PortState.reset : PortState where
  receiver := .hunt
  buffer := []
  answers := []
  frameError := false
  overrun := false
  unmatchedEdge := false

/-- A store in which no slot has ever been written: every slot EMPTY, READY, no result (R155). -/
def RecipeStore.blank : RecipeStore where
  slots := Vector.replicate 16 .empty
  cycle := none
  lastResult := none

/-- The state after a reset that samples `pair` and finds the store `store`, with `pending` still to come. -/
def State.afterReset (pair : PhasePair) (store : RecipeStore) (pending : List Instr) : State where
  position := .reset pair
  tracker := .reset
  plan := .reset
  verdict := .reset
  store := store
  line := .reset
  ports := ⟨.reset, .replicate .reset⟩
  pending := pending

/-- The part right after its first power-on: both phases low (log entry 7, DESIGN CHOICE) and a store never written
(log entry 8). -/
def State.reset : State := .afterReset ⟨false, false⟩ .blank []

end Sys2Proof.Machine
end

