-- ==== Sys2Proof/Machine/Access.lean ====
section
/-! DEFINITION. How the parts of State are reached: values by port, plan slots by name, progress entries by role,
record fields that are computed. -/

namespace Sys2Proof

/-! ### Recipes -/

/-- A recipe's hanger style (field 5). Every recipe kept by the part has passed R56, so its code is 0, 1 or 2. -/
inductive HangerStyle where
  | none | cut | drill
  deriving DecidableEq, Repr

/-- The hanger style of a recipe (section 12.6). -/
def Recipe.style (r : Recipe) : HangerStyle :=
  match r.styleCode with
  | 1 => .cut
  | 2 => .drill
  | _ => .none

/-- The sheet total: the sum of the group counts (R22). -/
def Recipe.sheetTotal (r : Recipe) : Nat := (r.groups.map (·.count)).sum

/-- A record with every field 0, for a plan slot that holds no recipe. No set in the queue belongs to such a slot
(R88, log entry 18). -/
def Recipe.absent : Recipe := ⟨[], 0, 0, 0, 0, 0, 0, 0, 0, 0, 0, 0, 0, []⟩

end Sys2Proof

namespace Sys2Proof.Machine

/-! ### Ports -/

/-- The number of a station port, 1 to 6. -/
def stationNumber : StationPort → Nat
  | .p1 => 1 | .p2 => 2 | .p3 => 3 | .p4 => 4 | .p5 => 5 | .p6 => 6

/-- The station port of a number, if it is 1 to 6 (R94). -/
def stationOfNumber : Nat → Option StationPort
  | 1 => some .p1 | 2 => some .p2 | 3 => some .p3 | 4 => some .p4 | 5 => some .p5 | 6 => some .p6
  | _ => none

/-- The number of a port, 0 to 6. -/
def portNumber : Port → Nat
  | .supervisor => 0
  | .station p => stationNumber p

/-- The port of a number, if it is 0 to 6 (R170). -/
def portOfNumber (n : Nat) : Option Port :=
  if n = 0 then some .supervisor else (stationOfNumber n).map .station

/-- Ports 1 to 6 in increasing number. -/
def stationPorts : List StationPort := [.p1, .p2, .p3, .p4, .p5, .p6]

/-- The value at a station port. -/
def PerStation.get {α : Type} (v : PerStation α) : StationPort → α
  | .p1 => v.p1 | .p2 => v.p2 | .p3 => v.p3 | .p4 => v.p4 | .p5 => v.p5 | .p6 => v.p6

/-- Replaces the value at a station port. -/
def PerStation.set {α : Type} (v : PerStation α) (p : StationPort) (x : α) : PerStation α :=
  match p with
  | .p1 => { v with p1 := x } | .p2 => { v with p2 := x } | .p3 => { v with p3 := x }
  | .p4 => { v with p4 := x } | .p5 => { v with p5 := x } | .p6 => { v with p6 := x }

/-- The value at a port. -/
def PerPort.get {α : Type} (v : PerPort α) : Port → α
  | .supervisor => v.supervisor
  | .station p => v.stations.get p

/-- Replaces the value at a port. -/
def PerPort.set {α : Type} (v : PerPort α) (p : Port) (x : α) : PerPort α :=
  match p with
  | .supervisor => { v with supervisor := x }
  | .station q => { v with stations := v.stations.set q x }

/-- Ports 0 to 6 in increasing number. -/
def allPorts : List Port := .supervisor :: stationPorts.map .station

/-- A port's controller. -/
def State.port (s : State) (p : Port) : PortState := s.ports.get p

/-- Changes one port's controller. -/
def State.updatePort (s : State) (p : Port) (f : PortState → PortState) : State :=
  { s with ports := s.ports.set p (f (s.port p)) }

/-! ### Station table -/

/-- The table entry of a port (R93). -/
def State.station (s : State) (p : StationPort) : Station := s.tracker.stations.get p

/-- The station role of a port, if its role is one of the five (R93). -/
def Role.stationRole : Role → Option StationRole
  | .station r => Option.some r
  | .none | .collator => Option.none

/-- The ports that hold a role, in increasing number. -/
def portsWith (stations : PerStation Station) (role : Role) : List StationPort :=
  stationPorts.filter fun p => (stations.get p).role = role

/-- A port holds the station role. -/
def rolePresent (stations : PerStation Station) (r : StationRole) : Bool :=
  !(portsWith stations (.station r)).isEmpty

/-- The first table entry that holds a role. -/
def stationWith (stations : PerStation Station) (role : Role) : Option Station :=
  (portsWith stations role).head?.map stations.get

/-! ### Plan slots -/

/-- The plan slot of a name. -/
def PlanUnit.slot (u : PlanUnit) : SlotId → PlanSlot
  | .a => u.slotA
  | .b => u.slotB

/-- Replaces a plan slot. -/
def PlanUnit.setSlot (u : PlanUnit) (i : SlotId) (x : PlanSlot) : PlanUnit :=
  match i with
  | .a => { u with slotA := x }
  | .b => { u with slotB := x }

/-- Replaces a plan slot. -/
def State.setSlot (s : State) (i : SlotId) (x : PlanSlot) : State :=
  { s with plan := s.plan.setSlot i x }

/-- What a slot that is not FREE holds. -/
def PlanSlot.job? : PlanSlot → Option Job
  | .free => none
  | .staged j | .current _ j | .draining _ j => some j

/-- A slot's job number, absent in a FREE or STAGED slot (R78). -/
def PlanSlot.number? : PlanSlot → Option Nat
  | .free | .staged _ => none
  | .current n _ | .draining n _ => some n

/-- Changes what a slot holds; a FREE slot holds nothing. -/
def PlanSlot.mapJob (f : Job → Job) : PlanSlot → PlanSlot
  | .free => .free
  | .staged j => .staged (f j)
  | .current n j => .current n (f j)
  | .draining n j => .draining n (f j)

def PlanSlot.isFree : PlanSlot → Bool
  | .free => true
  | .staged _ | .current _ _ | .draining _ _ => false

def PlanSlot.isStaged : PlanSlot → Bool
  | .staged _ => true
  | .free | .current _ _ | .draining _ _ => false

def PlanSlot.isCurrent : PlanSlot → Bool
  | .current _ _ => true
  | .free | .staged _ | .draining _ _ => false

def PlanSlot.isDraining : PlanSlot → Bool
  | .draining _ _ => true
  | .free | .staged _ | .current _ _ => false

/-- The slot that a test holds of, A before B. -/
def PlanUnit.findSlot (u : PlanUnit) (test : PlanSlot → Bool) : Option SlotId :=
  if test u.slotA then some .a else if test u.slotB then some .b else none

/-- The CURRENT slot. -/
def PlanUnit.currentSlot (u : PlanUnit) : Option SlotId := u.findSlot PlanSlot.isCurrent

/-- The STAGED slot. -/
def PlanUnit.stagedSlot (u : PlanUnit) : Option SlotId := u.findSlot PlanSlot.isStaged

/-! ### Recipe copies and plans -/

/-- A plan with every field 0, for a plan slot that holds none (log entry 18). -/
def HolePlan.absent : HolePlan := ⟨0, false, 0, 0, 0, 0, none, [], [], none, none⟩

/-- The recipe copy of the plan slot (R38). -/
def State.slotRecipe (s : State) (i : SlotId) : Recipe := ((s.plan.slot i).job?.map (·.recipe)).getD .absent

/-- The hole plan of the plan slot (R109). -/
def State.slotPlan (s : State) (i : SlotId) : HolePlan := ((s.plan.slot i).job?.map (·.plan)).getD .absent

/-! ### Set records -/

/-- The progress entry of a role. -/
def ProgressEntries.get (e : ProgressEntries) : StationRole → Option Progress
  | .punch => e.punch
  | .notch => e.notch
  | .drill => e.drill
  | .binder => e.binder
  | .gate => e.gate

/-- Replaces the progress entry of a role. -/
def ProgressEntries.set (e : ProgressEntries) (r : StationRole) (p : Progress) : ProgressEntries :=
  match r with
  | .punch => { e with punch := some p }
  | .notch => { e with notch := some p }
  | .drill => { e with drill := some p }
  | .binder => { e with binder := some p }
  | .gate => { e with gate := some p }

/-- The station roles in the role order of R99. -/
def stationRoles : List StationRole := [.punch, .notch, .drill, .binder, .gate]

/-- Replaces a set's progress entry for a role. -/
def SetRecord.setProgress (x : SetRecord) (r : StationRole) (p : Progress) : SetRecord :=
  { x with progress := x.progress.set r p }

/-- The entry position E, absent while GATHERING (R29). -/
def SetRecord.entry? (x : SetRecord) : Option Position :=
  match x.state with
  | .gathering => none
  | .travelling e => some e

/-- The set is GATHERING. -/
def SetRecord.isGathering (x : SetRecord) : Bool := x.entry?.isNone

/-- The lift count: the lifts of the plan, 0 when it is absent (R31). -/
def SetRecord.liftCount (x : SetRecord) : Nat := (x.liftPlan.map List.length).getD 0

/-- The travel distance d = (T - E) modulo 2^32 (R10), 0 for a set with no entry position. -/
def SetRecord.distance (x : SetRecord) (t : Position) : Nat :=
  match x.state with
  | .gathering => 0
  | .travelling e => (t - e).toNat

/-- The record of a set number, if it is in the queue. -/
def State.findSet (s : State) (n : Nat) : Option SetRecord := s.tracker.queue.find? fun x => x.number = n

/-- Changes the record of a set number. -/
def State.updateSet (s : State) (n : Nat) (f : SetRecord → SetRecord) : State :=
  { s with tracker := { s.tracker with
      queue := s.tracker.queue.map fun x => if x.number = n then f x else x } }

/-- The gathering set, if there is one (R18). -/
def State.gatheringSet (s : State) : Option SetRecord := s.tracker.queue.find? SetRecord.isGathering

/-! ### Positions -/

/-- The reverse depth: (T - P) modulo 2^32, 0 while P equals T (R5). -/
def PositionCounter.reverseDepth (c : PositionCounter) : Position := c.tracking - c.raw

/-! ### Recipe store -/

/-- The store slot of a number, if it is 1 to 16 (R79, R156). -/
def storeSlotOfNumber (n : Nat) : Option (Fin 16) :=
  if h : 1 ≤ n ∧ n ≤ 16 then some ⟨n - 1, by omega⟩ else none

/-- The number of a store slot, 1 to 16. -/
def storeNumber (i : Fin 16) : Nat := i.val + 1

/-- Replaces a store slot. -/
def RecipeStore.setSlot (r : RecipeStore) (i : Fin 16) (x : StoreSlot) : RecipeStore :=
  { r with slots := r.slots.set i x }

end Sys2Proof.Machine
end

