-- ==== Sys2Proof/Machine/Flags.lean ====
section
/-! DEFINITION. Every set of names and every flag: check words, halt cause sets, port flags, and the outputs ATTN and
LSTOP that follow them. -/

namespace Sys2Proof.Machine

/-! ### Check words (R20) -/

/-- The fifteen names in the order of their bits (section 12.6). -/
def allChecks : List Check :=
  [.short, .long, .gaugeGap, .thin, .thick, .double, .liftOverload, .liftLimit, .punchFault, .finishFault,
   .bindFault, .missed, .unconfirmed, .crowded, .sample]

/-- The word holds the name. -/
def CheckWord.has (w : CheckWord) : Check → Bool
  | .short => w.short
  | .long => w.long
  | .gaugeGap => w.gaugeGap
  | .thin => w.thin
  | .thick => w.thick
  | .double => w.double
  | .liftOverload => w.liftOverload
  | .liftLimit => w.liftLimit
  | .punchFault => w.punchFault
  | .finishFault => w.finishFault
  | .bindFault => w.bindFault
  | .missed => w.missed
  | .unconfirmed => w.unconfirmed
  | .crowded => w.crowded
  | .sample => w.sample

/-- Places a name in the word if it is not there, and leaves the word as it was if it is (R20). -/
def CheckWord.add (w : CheckWord) : Check → CheckWord
  | .short => { w with short := true }
  | .long => { w with long := true }
  | .gaugeGap => { w with gaugeGap := true }
  | .thin => { w with thin := true }
  | .thick => { w with thick := true }
  | .double => { w with double := true }
  | .liftOverload => { w with liftOverload := true }
  | .liftLimit => { w with liftLimit := true }
  | .punchFault => { w with punchFault := true }
  | .finishFault => { w with finishFault := true }
  | .bindFault => { w with bindFault := true }
  | .missed => { w with missed := true }
  | .unconfirmed => { w with unconfirmed := true }
  | .crowded => { w with crowded := true }
  | .sample => { w with sample := true }

/-- Adds a name when a condition holds. -/
def CheckWord.addIf (w : CheckWord) (b : Bool) (c : Check) : CheckWord := if b then w.add c else w

/-- The word holds no name. -/
def CheckWord.isEmpty (w : CheckWord) : Bool := allChecks.all fun c => !w.has c

/-- Adds a check name to a set's check word (R20). -/
def SetRecord.addCheck (x : SetRecord) (c : Check) : SetRecord := { x with checks := x.checks.add c }

/-! ### Halt cause sets (R144) -/

/-- The seven causes in the order of their bits (section 12.6). -/
def allCauses : List Cause :=
  [.operator, .reverse, .missRun, .gateMissed, .gateUnconfirmed, .gateMismatch, .rejectRun]

/-- The set holds the cause. -/
def CauseSet.has (w : CauseSet) : Cause → Bool
  | .operator => w.operator
  | .reverse => w.reverse
  | .missRun => w.missRun
  | .gateMissed => w.gateMissed
  | .gateUnconfirmed => w.gateUnconfirmed
  | .gateMismatch => w.gateMismatch
  | .rejectRun => w.rejectRun

/-- Adds a cause once (R147). -/
def CauseSet.add (w : CauseSet) : Cause → CauseSet
  | .operator => { w with operator := true }
  | .reverse => { w with reverse := true }
  | .missRun => { w with missRun := true }
  | .gateMissed => { w with gateMissed := true }
  | .gateUnconfirmed => { w with gateUnconfirmed := true }
  | .gateMismatch => { w with gateMismatch := true }
  | .rejectRun => { w with rejectRun := true }

/-! ### Port flags (R170) -/

/-- Some flag of the port is set. -/
def PortState.anyFlag (p : PortState) : Bool := p.frameError || p.overrun || p.unmatchedEdge

/-- Clears the port's three flags (R170). -/
def PortState.clearFlags (p : PortState) : PortState :=
  { p with frameError := false, overrun := false, unmatchedEdge := false }

/-! ### Outputs -/

/-- The line state is HALT. -/
def LineState.isHalt : LineState → Bool
  | .halt _ => true
  | .unconfigured | .idle | .run | .drain => false

/-- What ATTN follows (R152). -/
def State.attnCondition (s : State) : Bool :=
  s.line.state.isHalt || s.line.jobDone || s.line.storeEnd || s.position.encoderLatch ||
    allPorts.any fun p => (s.port p).anyFlag

/-- Drives ATTN at the end of an event (R152). -/
def State.driveAttn (s : State) : State := { s with line := { s.line with attn := s.attnCondition } }

end Sys2Proof.Machine
end

