-- ==== Sys2Proof/Machine/Wire.lean ====
section
/-! DEFINITION. The bytes of chapter 12: byte order, frame form, kind values, numeric values of every name, and the
records that answers carry. -/

namespace Sys2Proof.Machine

/-! ### Byte order (R172) -/

def be1 (n : Nat) : List Byte := [BitVec.ofNat 8 n]

/-- Two bytes, most significant first. -/
def be2 (n : Nat) : List Byte := [BitVec.ofNat 8 (n / 256), BitVec.ofNat 8 n]

/-- Three bytes, most significant first. -/
def be3 (n : Nat) : List Byte := BitVec.ofNat 8 (n / 65536) :: be2 n

/-- Four bytes, most significant first. -/
def be4 (n : Nat) : List Byte := BitVec.ofNat 8 (n / 16777216) :: be3 n

/-- The number that bytes spell, most significant first. -/
def fromBytes (bs : List Byte) : Nat := bs.foldl (fun n b => 256 * n + b.toNat) 0

/-- A yes or no field: yes 1, no 0 (section 12.6). -/
def beBool (b : Bool) : List Byte := be1 b.toNat

/-- The mask of a list of bits, bit 0 first (R172). -/
def maskOf : List Bool → Nat
  | [] => 0
  | b :: bs => b.toNat + 2 * maskOf bs

/-! ### Frames (R163) -/

/-- The lead byte. -/
abbrev leadByte : Byte := 0xA5

/-- The sum of bytes modulo 256. -/
def byteSum (bs : List Byte) : Byte := bs.foldl (· + ·) 0

/-- A frame as a run of bytes: lead, length of kind and payload, kind, payload, check (R163). -/
def wireFrame (kind : Byte) (payload : List Byte) : List Byte :=
  let counted := BitVec.ofNat 8 (payload.length + 1) :: kind :: payload
  leadByte :: counted ++ [-(byteSum counted)]

/-! ### Request kinds (section 12.3) -/

abbrev kindOpen : Byte := 0x01
abbrev kindSheet : Byte := 0x02
abbrev kindClose : Byte := 0x03
abbrev kindAbandon : Byte := 0x04
abbrev kindEdge : Byte := 0x05
abbrev kindLift : Byte := 0x06
abbrev kindDone : Byte := 0x07
abbrev kindFault : Byte := 0x08
abbrev kindDiverted : Byte := 0x09
abbrev kindSetLine : Byte := 0x20
abbrev kindSetStation : Byte := 0x21
abbrev kindSetDie : Byte := 0x22
abbrev kindSetRules : Byte := 0x23
abbrev kindStore : Byte := 0x24
abbrev kindErase : Byte := 0x25
abbrev kindReadRecipe : Byte := 0x26
abbrev kindStage : Byte := 0x27
abbrev kindStageInline : Byte := 0x28
abbrev kindDiscard : Byte := 0x29
abbrev kindChangeover : Byte := 0x2A
abbrev kindEndJob : Byte := 0x2B
abbrev kindStop : Byte := 0x2C
abbrev kindResume : Byte := 0x2D
abbrev kindPurge : Byte := 0x2E
abbrev kindMarkSample : Byte := 0x2F
abbrev kindReadStatus : Byte := 0x30
abbrev kindReadSet : Byte := 0x31
abbrev kindReadPlan : Byte := 0x32
abbrev kindReadHistory : Byte := 0x33
abbrev kindRewind : Byte := 0x34
abbrev kindReadPortStatus : Byte := 0x35

/-- The kind is one the table of R167 lists for the port. -/
def kindOfPort : Port → Byte → Bool
  | .supervisor, k => 0x20 ≤ k.toNat && k.toNat ≤ 0x35
  | .station _, k => 0x01 ≤ k.toNat && k.toNat ≤ 0x09

/-! ### Numeric values (section 12.6) -/

/-- The answer codes (R169). -/
inductive AnswerCode where
  | ok | busy | full | quota | state | role | badLen | range | noSet | unmatched | pass | notArrived | late
  | duplicate | order | empty | corrupt | plan
  deriving DecidableEq, Repr

def answerCodeByte : AnswerCode → Nat
  | .ok => 0 | .busy => 1 | .full => 2 | .quota => 3 | .state => 4 | .role => 5 | .badLen => 6 | .range => 7
  | .noSet => 8 | .unmatched => 9 | .pass => 10 | .notArrived => 11 | .late => 12 | .duplicate => 13
  | .order => 14 | .empty => 15 | .corrupt => 16 | .plan => 17

/-- The plan errors (R57). -/
inductive PlanError where
  | sheetList | liftCapacity | dieAbsent | pitchMismatch | margin | tooFewHoles | guideRange | stationAbsent
  | gapNarrow | segmentShort
  deriving DecidableEq, Repr

def planErrorByte : PlanError → Nat
  | .sheetList => 1 | .liftCapacity => 2 | .dieAbsent => 3 | .pitchMismatch => 4 | .margin => 5
  | .tooFewHoles => 6 | .guideRange => 7 | .stationAbsent => 8 | .gapNarrow => 9 | .segmentShort => 10

/-- The configuration results (R96). -/
inductive ConfigResult where
  | ok | collatorCount | punchCount | binderCount | gateCount | notchCount | drillCount | windowOpen | windowClose
  | finishOrder | gateClearance | spacing
  deriving DecidableEq, Repr

def configResultByte : ConfigResult → Nat
  | .ok => 0 | .collatorCount => 1 | .punchCount => 2 | .binderCount => 3 | .gateCount => 4 | .notchCount => 5
  | .drillCount => 6 | .windowOpen => 7 | .windowClose => 8 | .finishOrder => 9 | .gateClearance => 10
  | .spacing => 11

/-- A check word or a rule mask, 16 bits of which bit 15 is 0. -/
def checkMask (w : CheckWord) : Nat := maskOf (allChecks.map w.has)

def causeMask (w : CauseSet) : Nat := maskOf (allCauses.map w.has)

/-- A port's flags: FRAME_ERROR, OVERRUN, UNMATCHED_EDGE. -/
def flagMask (p : PortState) : Nat := maskOf [p.frameError, p.overrun, p.unmatchedEdge]

def stationRoleByte : StationRole → Nat
  | .punch => 2 | .notch => 3 | .drill => 4 | .binder => 5 | .gate => 6

def roleByte : Role → Nat
  | .none => 0
  | .collator => 1
  | .station r => stationRoleByte r

/-- The role that READ PORT STATUS reports of port 0. -/
abbrev supervisorRoleByte : Nat := 7

def lineStateByte : LineState → Nat
  | .unconfigured => 1 | .idle => 2 | .run => 3 | .drain => 4 | .halt _ => 5

/-- The return state as a line state, 0 when absent. -/
def returnStateByte : LineState → Nat
  | .halt .run => 3
  | .halt .drain => 4
  | .unconfigured | .idle | .run | .drain => 0

def setStateByte : SetState → Nat
  | .gathering => 1
  | .travelling _ => 2

def planSlotStateByte : PlanSlot → Nat
  | .free => 0 | .staged _ => 1 | .current _ _ => 2 | .draining _ _ => 3

def progressByte : Progress → Nat
  | .waiting => 1 | .passing => 2 | .atStation => 3 | .passed => 4 | .skipped => 5 | .withheld => 6
  | .missed => 7 | .done _ => 8 | .fault _ => 9 | .unconfirmed => 10

def gateOutletByte : GateOutlet → Nat
  | .accept => 1 | .reject => 2 | .rework => 3

/-- An outlet that may be absent, absent as 0 (R172). -/
def optionalOutletByte (o : Option GateOutlet) : Nat := (o.map gateOutletByte).getD 0

def outletByte : Outlet → Nat
  | .accept => 1 | .reject => 2 | .rework => 3 | .unresolved => 4 | .abandoned => 5 | .purged => 6

def sheetClassByte : SheetClass → Nat
  | .ok => 1 | .thin => 2 | .thick => 3 | .double => 4 | .unread => 5

def slotIdByte : SlotId → Nat
  | .a => 1
  | .b => 2

def cycleNameByte : CycleName → Nat
  | .store => 1
  | .erase => 2

def cycleOutcomeByte : CycleOutcome → Nat
  | .empty => 1 | .valid => 2 | .corrupt => 3

/-- A source, 0 for INLINE (section 12.5). -/
def sourceByte : Source → Nat
  | .store n => n
  | .inlined => 0

/-! ### Answers -/

/-- An answer: its code and the fields that follow it (R169). -/
structure Answer where
  code : AnswerCode
  fields : List Byte
  deriving DecidableEq, Repr

/-- An answer that carries its code alone. -/
def Answer.bare (c : AnswerCode) : Answer := ⟨c, []⟩

/-- RANGE with the field and the group or rule, 0 when none (section 12.4). -/
def Answer.range (field group : Nat) : Answer := ⟨.range, be1 field ++ be1 group⟩

/-- An answer to a report, which carries the set number (R118). -/
def Answer.report (c : AnswerCode) (set : Nat) : Answer := ⟨c, be2 set⟩

/-- The answer frame's bytes: the request's kind with its top bit set, then the code and its fields (R169, R163). -/
def Answer.wire (a : Answer) (kind : Byte) : List Byte :=
  wireFrame (kind ||| 0x80) (be1 (answerCodeByte a.code) ++ a.fields)

/-! ### Records (sections 12.3 to 12.5) -/

def sheetGroupBytes (g : SheetGroup) : List Byte := be1 g.number ++ be1 g.count ++ be2 g.nominal ++ be2 g.tolerance

/-- The recipe layout: 34 bytes, then 6 for each group. -/
def recipeBytes (r : Recipe) : List Byte :=
  r.name ++ be2 r.edge ++ be2 r.pitch ++ be2 r.margin ++ be1 r.styleCode ++ be2 r.gapWidth ++ be2 r.gapClearance ++
    be2 r.drillX ++ be2 r.drillY ++ be2 r.liftCapacity ++ be1 r.liftSheets ++ be3 r.target ++ be1 r.groupCount ++
    r.groups.flatMap sheetGroupBytes

def dieBytes (d : Die) : List Byte := be1 d.pins ++ be2 d.pitch ++ be2 d.offset ++ be2 d.travel

/-- One byte of a pin map, pin k in bit k mod 8 (R172). -/
def pinByte (pins : List Bool) (i : Nat) : List Byte := be1 (maskOf ((pins.drop (8 * i)).take 8))

/-- A pin map, ceil(D / 8) bytes (R172). -/
def pinBytes (pins : List Bool) : List Byte := (List.range ((pins.length + 7) / 8)).flatMap (pinByte pins)

def segmentBytes (g : Segment) : List Byte := be2 g.first ++ be1 g.loops

def segmentListBytes (gs : List Segment) : List Byte := be1 gs.length ++ gs.flatMap segmentBytes

/-- A lift as the PUNCH work record lists it. -/
def liftBytes (l : Lift) : List Byte := be1 l.first ++ be1 l.count ++ be2 l.sum

/-- A pair of 2-byte fields, 0 and 0 when absent (R173). -/
def optionalPairBytes (p : Option (Nat × Nat)) : List Byte :=
  match p with
  | some (x, y) => be2 x ++ be2 y
  | none => be2 0 ++ be2 0

/-- A hole plan as READ PLAN lays it out. -/
def holePlanBytes (p : HolePlan) : List Byte :=
  be1 p.holes ++ beBool p.clamped ++ be2 p.leftMargin ++ be2 p.rightMargin ++ be1 p.firstPin ++ be2 p.guide ++
    (match p.removed with
      | some (first, count) => be1 first ++ be1 count
      | none => be1 0 ++ be1 0) ++
    segmentListBytes p.segments ++ pinBytes p.pins ++ optionalPairBytes p.notch ++ optionalPairBytes p.drill

def sheetEntryBytes (e : SheetEntry) : List Byte :=
  be2 (e.measured.getD 0) ++ be1 (sheetClassByte e.sheetClass) ++ be2 e.planning

/-- The fault code that a progress entry shows, 0 when it has none. -/
def progressFaultCode : Progress → Nat
  | .fault c => c
  | .waiting | .passing | .atStation | .passed | .skipped | .withheld | .missed | .done _ | .unconfirmed => 0

/-- The outlet that a progress entry shows, 0 when it has none. -/
def progressOutlet : Progress → Nat
  | .done t => optionalOutletByte t
  | .waiting | .passing | .atStation | .passed | .skipped | .withheld | .missed | .fault _ | .unconfirmed => 0

def progressEntryBytes (r : StationRole) (p : Progress) : List Byte :=
  be1 (stationRoleByte r) ++ be1 (progressByte p) ++ be1 (progressFaultCode p) ++ be1 (progressOutlet p)

/-- The progress entries of a set, in role order: at most five, so that the largest set record takes 240 bytes, where
section 12.5 counts six entries and 244 bytes. The model's choice (log entry 25). -/
def progressList (e : ProgressEntries) : List (StationRole × Progress) :=
  stationRoles.filterMap fun r => (e.get r).map fun p => (r, p)

/-- A set record as READ SET lays it out, at tracking position `t` (R36, section 12.5). -/
def setRecordBytes (t : Position) (x : SetRecord) : List Byte :=
  be2 x.number ++ be1 (slotIdByte x.slot) ++ be1 (setStateByte x.state) ++ be4 (x.entry?.getD 0).toNat ++
    be4 (x.distance t) ++ be1 x.sheets.length ++ x.sheets.flatMap sheetEntryBytes ++ be1 x.liftCount ++
    (x.liftPlan.getD []).flatMap (fun l => liftBytes l ++ beBool l.overload) ++ be1 x.liftsDone ++
    be1 (progressList x.progress).length ++ (progressList x.progress).flatMap (fun e => progressEntryBytes e.1 e.2) ++
    be2 (checkMask x.checks) ++ be1 (optionalOutletByte x.commanded) ++ be1 (optionalOutletByte x.taken)

/-- A history entry, 18 bytes (section 12.4). -/
def historyEntryBytes (e : HistoryEntry) : List Byte :=
  be4 e.exitNumber.toNat ++ be2 e.set ++ be2 e.job ++ be1 (outletByte e.outlet) ++
    be1 (optionalOutletByte e.commanded) ++ be2 (checkMask e.checks) ++ beBool e.entry.isSome ++
    be4 (e.entry.getD 0).toNat ++ be1 e.sheetCount

/-- A slot summary of READ STATUS (R92); every field a FREE slot does not hold is 0. -/
def slotSummaryBytes (x : PlanSlot) : List Byte :=
  be1 (planSlotStateByte x) ++
    (match x.job? with
      | some j =>
        be1 (sourceByte j.source) ++ be3 j.target ++ be2 (x.number?.getD 0) ++ be1 j.inQueue ++
          be4 j.counters.opened.toNat ++ be4 j.counters.accepted.toNat ++ be4 j.counters.rejected.toNat ++
          be4 j.counters.reworked.toNat ++ be4 j.counters.unresolved.toNat ++ be4 j.counters.withdrawn.toNat
      | none => List.replicate 31 0)

/-- The store state, the slot being programmed, and the last result (section 12.5). -/
def storeStatusBytes (r : RecipeStore) : List Byte :=
  beBool r.cycle.isSome ++ be1 ((r.cycle.map fun c => storeNumber c.slot).getD 0) ++
    (match r.lastResult with
      | some x => be1 (cycleNameByte x.kind) ++ be1 (storeNumber x.slot) ++ be1 (cycleOutcomeByte x.outcome)
      | none => [0, 0, 0])

/-- The answer of READ STATUS (R154, section 12.5). -/
def statusBytes (s : State) : List Byte :=
  be1 (lineStateByte s.line.state) ++ be1 (returnStateByte s.line.state) ++ be1 (causeMask s.line.causes) ++
    be4 s.position.raw.toNat ++ be4 s.position.tracking.toNat ++ be4 s.position.reverseDepth.toNat ++
    be1 s.tracker.queue.length ++ be2 ((s.gatheringSet.map (·.number)).getD 0) ++
    be1 (maskOf [s.line.jobDone, s.line.storeEnd, s.position.encoderLatch]) ++ storeStatusBytes s.store ++
    be1 (maskOf (allPorts.map fun p => (s.port p).anyFlag)) ++ slotSummaryBytes s.plan.slotA ++
    slotSummaryBytes s.plan.slotB

/-- The work records (R109 to R115, R130). -/
inductive WorkRecord where
  | punch (guide : Nat) (pins : List Bool) (lifts : List Lift)
  | skip
  | notch (position width : Nat)
  | drill (x y : Nat)
  | bind (segments : List Segment) (insertHanger : Bool)
  | withhold
  | gate (outlet : GateOutlet)
  deriving DecidableEq, Repr

def actionByte : WorkRecord → Nat
  | .punch _ _ _ => 1 | .skip => 2 | .notch _ _ => 3 | .drill _ _ => 4 | .bind _ _ => 5 | .withhold => 6
  | .gate _ => 7

/-- The fields of a work record after action and set (section 12.5). -/
def workFields : WorkRecord → List Byte
  | .punch guide pins lifts =>
    be2 guide ++ be1 pins.length ++ pinBytes pins ++ be1 lifts.length ++ lifts.flatMap liftBytes
  | .notch position width => be2 position ++ be2 width
  | .drill x y => be2 x ++ be2 y
  | .bind segments insertHanger => segmentListBytes segments ++ beBool insertHanger
  | .gate o => be1 (gateOutletByte o)
  | .skip | .withhold => []

/-- The answer to an EDGE matched with work (R109). -/
def Answer.work (set : Nat) (w : WorkRecord) : Answer := ⟨.ok, be1 (actionByte w) ++ be2 set ++ workFields w⟩

end Sys2Proof.Machine
end

