-- ==== Sys2Proof/Machine/Operands.lean ====
section
/-! DEFINITION. The parameters of every request, read from its payload by the tables of section 12.3. `none` is a
payload whose length is not the one fixed for the kind (R167). -/

namespace Sys2Proof.Machine

/-- The number in `width` bytes at an offset. -/
def fieldAt (bs : List Byte) (offset width : Nat) : Nat := fromBytes ((bs.drop offset).take width)

/-- No payload: OPEN, DISCARD, CHANGEOVER, END JOB, STOP, RESUME, PURGE, READ STATUS, READ HISTORY, REWIND. -/
def parseNone : List Byte → Option Unit
  | [] => some ()
  | _ :: _ => none

/-- One byte: EDGE (lag), ERASE, READ RECIPE, STAGE (store slot), READ PLAN (plan slot), READ PORT STATUS (port). -/
def parseByte : List Byte → Option Nat
  | [x] => some x.toNat
  | _ => none

/-- A set number: CLOSE, ABANDON, DONE, MARK SAMPLE, READ SET. -/
def parseSet : List Byte → Option Nat
  | [s1, s0] => some (fromBytes [s1, s0])
  | _ => none

/-- A set number and one byte: LIFT (index), FAULT (code), DIVERTED (outlet). -/
def parseSetByte : List Byte → Option (Nat × Nat)
  | [s1, s0, x] => some (fromBytes [s1, s0], x.toNat)
  | _ => none

/-- The parameters of SHEET (R24). -/
structure SheetParams where
  set : Nat
  index : Nat
  caliper : Nat
  deriving DecidableEq, Repr

/-- SHEET; the high four bits of the caliper field are ignored (R172). -/
def parseSheet : List Byte → Option SheetParams
  | [s1, s0, i, c1, c0] => some ⟨fromBytes [s1, s0], i.toNat, fromBytes [c1, c0] % 4096⟩
  | _ => none

/-- SET LINE (R95). -/
def parseSetLine : List Byte → Option LineConfig
  | [d, r1, r0, s1, s0, j] => some ⟨d.toNat, fromBytes [r1, r0], fromBytes [s1, s0], j.toNat⟩
  | _ => none

/-- The parameters of SET STATION as carried (R94). -/
structure StationParams where
  port : Nat
  role : Nat
  arrive : Nat
  close : Nat
  tol : Nat
  deriving DecidableEq, Repr

/-- SET STATION (R94). -/
def parseSetStation : List Byte → Option StationParams
  | [p, r, a1, a0, z1, z0, t1, t0] =>
    some ⟨p.toNat, r.toNat, fromBytes [a1, a0], fromBytes [z1, z0], fromBytes [t1, t0]⟩
  | _ => none

/-- SET DIE (R54). -/
def parseSetDie : List Byte → Option Die
  | [d, p1, p0, o1, o0, s1, s0] => some ⟨d.toNat, fromBytes [p1, p0], fromBytes [o1, o0], fromBytes [s1, s0]⟩
  | _ => none

/-- A verdict rule as carried (R128). -/
structure RuleParams where
  test : Nat
  mask : Nat
  outlet : Nat
  deriving DecidableEq, Repr

/-- As many 4-byte rules as the count says. -/
def parseRuleList : Nat → List Byte → List RuleParams
  | 0, _ => []
  | n + 1, bs => ⟨fieldAt bs 0 1, fieldAt bs 1 2, fieldAt bs 3 1⟩ :: parseRuleList n (bs.drop 4)

/-- SET RULES: the count and that many rules (R167). -/
def parseSetRules : List Byte → Option (Nat × List RuleParams)
  | [] => none
  | c :: bs => if bs.length = 4 * c.toNat then some (c.toNat, parseRuleList c.toNat bs) else none

/-- As many 6-byte group entries as field 13 says. -/
def parseGroups : Nat → List Byte → List SheetGroup
  | 0, _ => []
  | n + 1, bs => ⟨fieldAt bs 0 1, fieldAt bs 1 1, fieldAt bs 2 2, fieldAt bs 4 2⟩ :: parseGroups n (bs.drop 6)

/-- A recipe: 34 bytes of which the last is the number of groups, then the groups (R167, section 12.3). -/
def parseRecipe (bs : List Byte) : Option Recipe :=
  let n := fieldAt bs 33 1
  if 34 ≤ bs.length ∧ bs.length = 34 + 6 * n then
    some {
      name := bs.take 12
      edge := fieldAt bs 12 2
      pitch := fieldAt bs 14 2
      margin := fieldAt bs 16 2
      styleCode := fieldAt bs 18 1
      gapWidth := fieldAt bs 19 2
      gapClearance := fieldAt bs 21 2
      drillX := fieldAt bs 23 2
      drillY := fieldAt bs 25 2
      liftCapacity := fieldAt bs 27 2
      liftSheets := fieldAt bs 29 1
      target := fieldAt bs 30 3
      groupCount := n
      groups := parseGroups n (bs.drop 34) }
  else none

/-- STORE: a store slot and a recipe. -/
def parseStore : List Byte → Option (Nat × Recipe)
  | [] => none
  | i :: bs => (parseRecipe bs).map fun r => (i.toNat, r)

/-! ### Named values as carried (R173) -/

/-- The role of a role byte, if it is one of the seven (section 12.6). -/
def roleOfByte : Nat → Option Role
  | 0 => some .none
  | 1 => some .collator
  | 2 => some (.station .punch)
  | 3 => some (.station .notch)
  | 4 => some (.station .drill)
  | 5 => some (.station .binder)
  | 6 => some (.station .gate)
  | _ => none

/-- The outlet of an outlet byte, if it is ACCEPT, REJECT or REWORK. -/
def outletOfByte : Nat → Option GateOutlet
  | 1 => some .accept
  | 2 => some .reject
  | 3 => some .rework
  | _ => none

/-- The test of a test byte. -/
def testOfByte : Nat → Option RuleTest
  | 1 => some .any
  | 2 => some .all
  | _ => none

/-- The plan slot of a plan slot byte. -/
def slotOfByte : Nat → Option SlotId
  | 1 => some .a
  | 2 => some .b
  | _ => none

/-- The check names of a mask whose bit 15 is 0; a mask with bit 15 set names something else (R173). -/
def checksOfMask (m : Nat) : Option CheckWord :=
  if m < 32768 then
    some ((allChecks.zipIdx.filter fun c => m.testBit c.2).foldl (fun w c => w.add c.1) {})
  else none

end Sys2Proof.Machine
end

