-- ==== Sys2Proof/Machine/Ops.lean ====
section
/-! DEFINITION. The operations that several commands share: taking a frame and answering it, handing a halt cause to
line control, releasing slots, settling a set that leaves the queue. -/

namespace Sys2Proof.Machine

/-! ### Taking a frame (R166 to R168) -/

/-- What a block makes of a request: the state it leaves and its answer. -/
abbrev Reply := State × Answer

/-- Appends an answer, as its bytes, at the tail of a port's answer queue (R166). -/
def State.pushAnswer (s : State) (p : Port) (bytes : List Byte) : State :=
  s.updatePort p fun q => { q with answers := q.answers ++ [bytes] }

/-- A frame leaves the head of a port's input buffer, where `rest` stays (R166). -/
def State.withoutFrame (s : State) (p : Port) (rest : List Frame) : State :=
  s.updatePort p fun q => { q with buffer := rest }

/-- The oldest frame of a port is taken if its kind is wanted and the answer queue has room: it leaves the buffer, the
block acts, the answer is appended (R166). Otherwise no such frame is taken now, and nothing changes (log entry 2). -/
def takeFrame (p : Port) (wanted : Byte → Bool) (act : Frame → State → Reply) (s : State) : Result :=
  match (s.port p).buffer with
  | [] => .next s
  | f :: rest =>
    if wanted f.kind && decide ((s.port p).answers.length < Config.answerDepth) then
      let r := act f (s.withoutFrame p rest)
      .next (r.1.pushAnswer p (r.2.wire f.kind)).driveAttn
    else .next s

/-- A request of one kind is taken: BADLEN for a payload of the wrong length, otherwise its block acts on the parameters
and the capture position (R167). -/
def takeRequest {α : Type} (p : Port) (kind : Byte) (parse : List Byte → Option α)
    (act : α → Position → State → Reply) (s : State) : Result :=
  takeFrame p (fun k => k == kind) (fun f t =>
    match parse f.payload with
    | none => (t, .bare .badLen)
    | some a => act a f.capture t) s

/-- A supervisor request is taken on port 0. -/
def takeSupervisor {α : Type} (kind : Byte) (parse : List Byte → Option α) (act : α → State → Reply) (s : State) :
    Result :=
  takeRequest .supervisor kind parse (fun a _ t => act a t) s

/-- A collator request is taken: ROLE on a port whose role is not COLLATOR, before every other test (R168). -/
def takeCollator {α : Type} (p : StationPort) (kind : Byte) (parse : List Byte → Option α)
    (act : α → Position → State → Reply) (s : State) : Result :=
  takeRequest (.station p) kind parse (fun a c t =>
    if (t.station p).role = .collator then act a c t else (t, .bare .role)) s

/-! ### Line control (R146, R147, R91) -/

/-- A halt cause is handed to line control (R146, R147). -/
def LineControl.handCause (c : Cause) (l : LineControl) : LineControl :=
  match l.state with
  | .run => { l with state := .halt .run, causes := l.causes.add c, lstop := true }
  | .drain => { l with state := .halt .drain, causes := l.causes.add c, lstop := true }
  | .halt _ => { l with causes := l.causes.add c }
  | .unconfigured | .idle => l

/-- A halt cause is handed to line control. -/
def State.handCause (s : State) (c : Cause) : State := { s with line := s.line.handCause c }

/-- The job-complete event of the CURRENT slot (R91). -/
def LineControl.jobComplete (l : LineControl) : LineControl :=
  match l.state with
  | .run => { l with state := .drain }
  | .halt _ => { l with state := .halt .drain }
  | .drain | .unconfigured | .idle => l

/-! ### Releasing slots (R88, R89) -/

/-- A slot that is CURRENT becomes FREE. -/
def PlanSlot.freeIfCurrent (x : PlanSlot) : PlanSlot := if x.isCurrent then .free else x

/-- The CURRENT slot, if one is, becomes FREE (R89). -/
def PlanUnit.freeCurrent (u : PlanUnit) : PlanUnit :=
  { u with slotA := u.slotA.freeIfCurrent, slotB := u.slotB.freeIfCurrent }

/-- In DRAIN with the queue empty, the CURRENT slot becomes FREE and the line goes to IDLE (R88). -/
def State.releaseLine (s : State) : State :=
  if s.line.state = .drain ∧ s.tracker.queue = [] then
    { s with plan := s.plan.freeCurrent, line := { s.line with state := .idle } }
  else s

/-- One set fewer in the queue; a DRAINING slot that has none left becomes FREE (R88). -/
def PlanSlot.release : PlanSlot → PlanSlot
  | .free => .free
  | .staged j => .staged { j with inQueue := j.inQueue - 1 }
  | .current n j => .current n { j with inQueue := j.inQueue - 1 }
  | .draining n j => if j.inQueue - 1 = 0 then .free else .draining n { j with inQueue := j.inQueue - 1 }

/-- The plan unit learns that a slot has one set fewer in the queue (R86, R88). -/
def State.releaseSlot (s : State) (i : SlotId) : State := s.setSlot i (s.plan.slot i).release

/-- The STAGED slot, if one is, becomes FREE (R54, R82). -/
def PlanSlot.freeIfStaged (x : PlanSlot) : PlanSlot := if x.isStaged then .free else x

/-- The STAGED slot, if one is, becomes FREE. -/
def PlanUnit.discardStaged (u : PlanUnit) : PlanUnit :=
  { u with slotA := u.slotA.freeIfStaged, slotB := u.slotB.freeIfStaged }

/-! ### Settling (R133 to R138) -/

/-- The way a set leaves the queue (R33). -/
inductive Leaving where
  | exit | abandon | purge
  deriving DecidableEq, Repr

/-- The outlet of settling for a gate outlet. -/
def outletOfGate : GateOutlet → Outlet
  | .accept => .accept
  | .reject => .reject
  | .rework => .rework

/-- The outlet at leaving (R133). -/
def outletAtLeaving (w : Leaving) (x : SetRecord) : Outlet :=
  match w with
  | .purge => .purged
  | .abandon => .abandoned
  | .exit =>
    match x.progress.gate, x.taken with
    | some (.done _), some o => outletOfGate o
    | _, _ => .unresolved

/-- Advances the counter of an outlet (R86). -/
def SlotCounters.count (c : SlotCounters) : Outlet → SlotCounters
  | .accept => { c with accepted := c.accepted + 1 }
  | .reject => { c with rejected := c.rejected + 1 }
  | .rework => { c with reworked := c.reworked + 1 }
  | .unresolved => { c with unresolved := c.unresolved + 1 }
  | .abandoned | .purged => { c with withdrawn := c.withdrawn + 1 }

/-- The accepted count has come to a target that is not 0 (R91). -/
def Job.targetReached (j : Job) : Bool := 0 < j.target && j.counters.accepted.toNat == j.target

/-- Job completion: the JOB_DONE latch, and job-complete for the CURRENT slot (R91). -/
def State.raiseJobDone (s : State) (x : PlanSlot) : State :=
  { s with line :=
    let l := { s.line with jobDone := true }
    if x.isCurrent then l.jobComplete else l }

/-- The plan unit counts an outlet into a slot (R86, R91). -/
def State.countOutlet (s : State) (i : SlotId) (o : Outlet) : State :=
  let x := (s.plan.slot i).mapJob fun j => { j with counters := j.counters.count o }
  let s' := s.setSlot i x
  if o = .accept ∧ (x.job?.map Job.targetReached).getD false then s'.raiseJobDone x else s'

/-- The verdict unit updates the reject-run count (R135). -/
def State.countRun (s : State) (o : Outlet) : State :=
  match o with
  | .accept => { s with verdict := { s.verdict with rejectRun := 0 } }
  | .reject | .rework =>
    let n := min (s.verdict.rejectRun + 1) Config.rejectRunMax
    if 0 < s.tracker.lineConfig.rejectLimit ∧ n = s.tracker.lineConfig.rejectLimit then
      ({ s with verdict := { s.verdict with rejectRun := 0 } } : State).handCause .rejectRun
    else { s with verdict := { s.verdict with rejectRun := n } }
  | .unresolved | .abandoned | .purged => s

/-- Appends an entry; a full history gives up its oldest (R138). -/
def VerdictUnit.append (v : VerdictUnit) (e : HistoryEntry) : VerdictUnit :=
  { v with
    history := (if v.history.length < Config.historyDepth then v.history else v.history.tail) ++ [e]
    nextExit := v.nextExit + 1 }

/-- The history entry of a set that leaves with an outlet (R137). -/
def State.historyEntry (s : State) (x : SetRecord) (o : Outlet) : HistoryEntry where
  exitNumber := s.verdict.nextExit
  set := x.number
  job := (s.plan.slot x.slot).number?.getD 0
  outlet := o
  commanded := x.commanded
  checks := x.checks
  entry := x.entry?
  sheetCount := x.sheets.length

/-- The verdict unit settles a set (R134). -/
def State.settle (s : State) (w : Leaving) (x : SetRecord) : State :=
  let o := outletAtLeaving w x
  let s' := (s.countOutlet x.slot o).countRun o
  { s' with verdict := s'.verdict.append (s'.historyEntry x o) }

/-- Removes the record of a set number from its place (R16). -/
def State.removeSet (s : State) (n : Nat) : State :=
  { s with tracker := { s.tracker with queue := s.tracker.queue.filter fun x => x.number ≠ n } }

/-- A set leaves the queue: it is settled, removed, and its slot and the line are released (R33, R88). -/
def State.leave (s : State) (w : Leaving) (x : SetRecord) : State :=
  (((s.settle w x).removeSet x.number).releaseSlot x.slot).releaseLine

/-- The set of a number leaves the queue. -/
def State.leaveNumber (s : State) (w : Leaving) (n : Nat) : State :=
  match s.findSet n with
  | none => s
  | some x => s.leave w x

/-! ### Checks and answers about sets -/

/-- The answer to a collator request whose set is not in the queue (R23). -/
def State.missingSet (s : State) (n : Nat) : Answer :=
  if s.tracker.lastOpened = some n then .bare .state else .bare .noSet

end Sys2Proof.Machine
end

