-- ==== Sys2Proof/Machine/Crossings.lean ====
section
/-! DEFINITION. The crossings of station boundaries by travelling sets (R11 to R13, R100 to R103, R34). -/

namespace Sys2Proof.Machine

/-- A boundary is crossed when a travel distance that had not exceeded it, rising from `old` to `new`, exceeds it
(R11). -/
def crossed (old new boundary : Nat) : Bool := old ≤ boundary && boundary < new

/-- A port's consecutive-miss count rises; a rise to 3 returns it to 0 and hands over MISS_RUN (R100). -/
def State.raiseMiss (s : State) (p : StationPort) : State :=
  let n := s.tracker.missCounts.get p + 1
  if n < Config.missRun then
    { s with tracker := { s.tracker with missCounts := s.tracker.missCounts.set p n } }
  else
    ({ s with tracker := { s.tracker with missCounts := s.tracker.missCounts.set p 0 } } : State).handCause .missRun

/-- The progress entry of the set of a number for a role. -/
def State.progressOf (s : State) (n : Nat) (r : StationRole) : Option Progress :=
  (s.findSet n).bind fun x => x.progress.get r

/-- A miss crossing finds its entry so (R101). -/
def Progress.unseen : Progress → Bool
  | .waiting | .passing => true
  | .atStation | .passed | .skipped | .withheld | .missed | .done _ | .fault _ | .unconfirmed => false

/-- The miss crossing of a set for the station of role `r` on port `p` (R101). -/
def State.missCrossing (s : State) (p : StationPort) (r : StationRole) (n : Nat) : State :=
  if (s.progressOf n r).any Progress.unseen then
    let s' := (s.updateSet n fun x => (x.setProgress r .missed).addCheck .missed).raiseMiss p
    if r = .gate then s'.handCause .gateMissed else s'
  else s

/-- The close crossing of a set for the station of role `r` (R102). -/
def State.closeCrossing (s : State) (r : StationRole) (n : Nat) : State :=
  if s.progressOf n r = some .atStation then
    let s' := s.updateSet n fun x => (x.setProgress r .unconfirmed).addCheck .unconfirmed
    if r = .gate then s'.handCause .gateUnconfirmed else s'
  else s

/-- The crossings of one set at the station of one port, miss before close (R12). -/
def State.stationCrossings (s : State) (n old new : Nat) (p : StationPort) : State :=
  match (s.station p).role.stationRole with
  | none => s
  | some r =>
    let s' := if crossed old new ((s.station p).arrive + (s.station p).tol) then s.missCrossing p r n else s
    if crossed old new (s.station p).close then s'.closeCrossing r n else s'

/-- The exit boundary of every set: the gate's Z (R11). -/
def exitBoundary (stations : PerStation Station) : Option Nat := (stationWith stations (.station .gate)).map (·.close)

/-- The crossings of one set whose travel distance rises from `old` to `new`: its stations', then its exit (R12, R34).
The stations are visited by port number; their outcome does not depend on it (R12, log entry 13). -/
def State.crossSet (s : State) (n old new : Nat) : State :=
  let s' := stationPorts.foldl (fun t p => t.stationCrossings n old new p) s
  if (exitBoundary s'.tracker.stations).any (crossed old new) then s'.leaveNumber .exit n else s'

/-- The crossings of the set of a number at a step of T from `before` to `after` (R4, R11). -/
def State.crossAtStep (before after : Position) (s : State) (n : Nat) : State :=
  match (s.findSet n).bind SetRecord.entry? with
  | none => s
  | some e => s.crossSet n (before - e).toNat (after - e).toNat

/-- A step of T is offered to every travelling set, in queue order (R4, R12, R134). -/
def State.offerCrossings (s : State) (before after : Position) : State :=
  (s.tracker.queue.map (·.number)).foldl (State.crossAtStep before after) s

end Sys2Proof.Machine
end

