-- ==== Sys2Proof/Machine/HolePlan.lean ====
section
/-! DEFINITION. The recipe range check and the hole plan computation (chapter 4). -/

namespace Sys2Proof.Machine

/-! ### The range check of R56 -/

/-- A field that fails, with the group it belongs to (0 for fields 1 to 13). -/
structure FieldRef where
  field : Nat
  group : Nat
  deriving DecidableEq, Repr

/-- The first of a list of checks that fails. -/
def firstFailure : List (Bool × FieldRef) → Option FieldRef
  | [] => none
  | (ok, f) :: rest => if ok then firstFailure rest else some f

/-- `lo ≤ x ≤ hi`. -/
def inRange (lo hi x : Nat) : Bool := lo ≤ x && x ≤ hi

/-- The name is 12 characters, each 20h to 7Eh (field 1). -/
def nameInRange (name : List Byte) : Bool :=
  name.length == 12 && name.all fun c => inRange 0x20 0x7E c.toNat

/-- The checks of one group, fields 14 to 17; `place` is its place in the list, counted from 1 (R56). -/
def groupChecks (place : Nat) (g : SheetGroup) : List (Bool × FieldRef) :=
  [(g.number == place && inRange 1 8 g.number, ⟨14, place⟩), (inRange 1 32 g.count, ⟨15, place⟩),
   (inRange 40 4000 g.nominal, ⟨16, place⟩), (inRange 0 500 g.tolerance, ⟨17, place⟩)]

/-- The checks of every group from a place on. -/
def groupListChecks : Nat → List SheetGroup → List (Bool × FieldRef)
  | _, [] => []
  | place, g :: gs => groupChecks place g ++ groupListChecks (place + 1) gs

/-- The checks of a recipe in order of identifier. Fields 6 and 7 count only for style CUT, fields 8 and 9 only for
style DRILL (R56). -/
def recipeChecks (r : Recipe) : List (Bool × FieldRef) :=
  [(nameInRange r.name, ⟨1, 0⟩), (inRange 5000 60000 r.edge, ⟨2, 0⟩), (inRange 400 2000 r.pitch, ⟨3, 0⟩),
   (inRange 200 5000 r.margin, ⟨4, 0⟩), (inRange 0 2 r.styleCode, ⟨5, 0⟩),
   (r.style != .cut || inRange 0 8000 r.gapWidth, ⟨6, 0⟩),
   (r.style != .cut || inRange 0 1000 r.gapClearance, ⟨7, 0⟩),
   (r.style != .drill || inRange 0 r.edge r.drillX, ⟨8, 0⟩),
   (r.style != .drill || inRange 300 3000 r.drillY, ⟨9, 0⟩),
   (inRange 300 6000 r.liftCapacity, ⟨10, 0⟩), (inRange 1 32 r.liftSheets, ⟨11, 0⟩),
   (inRange 0 999999 r.target, ⟨12, 0⟩), (inRange 1 8 r.groupCount, ⟨13, 0⟩)] ++ groupListChecks 1 r.groups

/-- The field range check: the first field that fails (R56). -/
def rangeFailure (r : Recipe) : Option FieldRef := firstFailure (recipeChecks r)

/-! ### The geometry (R60 to R66) -/

/-- floor(a / b) for a positive `b` (R57). -/
def floorDiv (a b : Int) : Int := a / b

/-- ceil(a / b) for a positive `b` (R57). -/
def ceilDiv (a b : Int) : Int := -(-a / b)

/-- U = L - 2 * Mmin (R60). -/
def usableLength (r : Recipe) : Int := (r.edge : Int) - 2 * r.margin

/-- n0 = floor(U / P) + 1 (R61). -/
def naturalHoles (r : Recipe) : Int := floorDiv (usableLength r) r.pitch + 1

/-- n = min(n0, D) (R62). -/
def holeCount (r : Recipe) (d : Die) : Nat := (min (naturalHoles r) d.pins).toNat

/-- (n - 1) * P (R63). -/
def span (r : Recipe) (n : Nat) : Int := ((n : Int) - 1) * r.pitch

/-- m = floor((L - span) / 2) (R63). -/
def leftMargin (r : Recipe) (n : Nat) : Int := floorDiv ((r.edge : Int) - span r n) 2

/-- L - span - m (R63). -/
def rightMargin (r : Recipe) (n : Nat) : Int := (r.edge : Int) - span r n - leftMargin r n

/-- x_i = m + i * P (R63). -/
def holePosition (r : Recipe) (n i : Nat) : Int := leftMargin r n + i * r.pitch

/-- The lowest allowed first pin (R65). -/
def lowestPin (r : Recipe) (d : Die) (n : Nat) : Int := max 0 (ceilDiv (leftMargin r n - d.offset) r.pitch)

/-- The highest allowed first pin (R65). -/
def highestPin (r : Recipe) (d : Die) (n : Nat) : Int :=
  min ((d.pins : Int) - n) (floorDiv ((d.travel : Int) - d.offset + leftMargin r n) r.pitch)

/-- The first pin k0: the centred pin, or the allowed value nearest to it; none when no pin is allowed (R65, R66). -/
def firstPin (r : Recipe) (d : Die) (n : Nat) : Option Int :=
  let lo := lowestPin r d n
  let hi := highestPin r d n
  let centred := floorDiv ((d.pins : Int) - n) 2
  if hi < lo then none
  else if centred < lo then some lo
  else if hi < centred then some hi
  else some centred

/-- S = O0 + k0 * P - m (R64). -/
def guidePosition (r : Recipe) (d : Die) (n : Nat) (k0 : Int) : Int := (d.offset : Int) + k0 * r.pitch - leftMargin r n

/-! ### The hanger (R67 to R71) -/

/-- Hole i is removed: |2 * x_i - L| < G + 2 * C (R68). -/
def holeRemoved (r : Recipe) (n i : Nat) : Bool :=
  (2 * holePosition r n i - r.edge).natAbs < r.gapWidth + 2 * r.gapClearance

/-- The removed run as first hole index and hole count; none when it is empty (R68, R69). -/
def removedRun (r : Recipe) (n : Nat) : Option (Nat × Nat) :=
  match (List.range n).filter (holeRemoved r n) with
  | [] => none
  | i :: rest => some (i, rest.length + 1)

/-- A segment of `count` holes from hole `first` (R72). -/
def segmentOf (r : Recipe) (n first count : Nat) : Segment := ⟨(holePosition r n first).toNat, count⟩

/-- What the hanger stages add to a plan: the removed run, the segments, the notch and the drill position. -/
structure HangerPlan where
  removed : Option (Nat × Nat)
  segments : List Segment
  notch : Option (Nat × Nat)
  drill : Option (Nat × Nat)
  deriving DecidableEq, Repr

/-- The stages of style CUT: hanger station, hanger gap, segments (R67 to R70, R74). -/
def planCut (r : Recipe) (n : Nat) (stations : PerStation Station) : Except PlanError HangerPlan :=
  if !rolePresent stations .notch then .error .stationAbsent
  else
    match removedRun r n with
    | none => .error .gapNarrow
    | some (first, count) =>
      if first < 2 ∨ n < first + count + 2 then .error .segmentShort
      else .ok ⟨some (first, count),
        [segmentOf r n 0 first, segmentOf r n (first + count) (n - (first + count))],
        some (r.edge / 2, r.gapWidth), none⟩

/-- The hanger stages by style (R67, R71). -/
def planHanger (r : Recipe) (n : Nat) (stations : PerStation Station) : Except PlanError HangerPlan :=
  match r.style with
  | .cut => planCut r n stations
  | .drill =>
    if !rolePresent stations .drill then .error .stationAbsent
    else .ok ⟨none, [segmentOf r n 0 n], none, some (r.drillX, r.drillY)⟩
  | .none => .ok ⟨none, [segmentOf r n 0 n], none, none⟩

/-- Hole i lies in the removed run. -/
def inRun (run : Option (Nat × Nat)) (i : Nat) : Bool :=
  match run with
  | none => false
  | some (first, count) => first ≤ i && i < first + count

/-- The pin map: pin k0 + i is ENGAGED for each hole i that is kept (R72). -/
def pinMap (d : Die) (n k0 : Nat) (run : Option (Nat × Nat)) : List Bool :=
  (List.range d.pins).map fun k => k0 ≤ k && k < k0 + n && !inRun run (k - k0)

/-! ### The computation (R57) -/

/-- An error of the plan computation: RANGE with its field, or a plan error. -/
inductive StageError where
  | range (f : FieldRef)
  | plan (e : PlanError)
  deriving DecidableEq, Repr

/-- The sheet and lift checks (R58). -/
def sheetChecks (r : Recipe) : Option PlanError :=
  if r.sheetTotal < 2 ∨ Config.sheetLimit < r.sheetTotal then some .sheetList
  else if r.groups.any (fun g => r.liftCapacity < g.nominal) then some .liftCapacity
  else none

/-- The die checks and the placing of the row: the die used, the hole count and the first pin (R59 to R66). -/
def placeRow (r : Recipe) (die : Option Die) : Except PlanError (Die × Nat × Nat) :=
  match die with
  | none => .error .dieAbsent
  | some d =>
    if r.pitch ≠ d.pitch then .error .pitchMismatch
    else if usableLength r ≤ 0 then .error .margin
    else if naturalHoles r < 2 then .error .tooFewHoles
    else
      match firstPin r d (holeCount r d) with
      | none => .error .guideRange
      | some k0 => .ok (d, holeCount r d, k0.toNat)

/-- The hole plan record of a row and its hanger (R75). -/
def buildPlan (r : Recipe) (d : Die) (n k0 : Nat) (h : HangerPlan) : HolePlan where
  holes := n
  clamped := (d.pins : Int) < naturalHoles r
  leftMargin := (leftMargin r n).toNat
  rightMargin := (rightMargin r n).toNat
  firstPin := k0
  guide := (guidePosition r d n k0).toNat
  removed := h.removed
  segments := h.segments
  pins := pinMap d n k0 h.removed
  notch := h.notch
  drill := h.drill

/-- The plan computation through its stages in the order of R57: the first stage that finds an error ends it. -/
def computePlan (r : Recipe) (die : Option Die) (stations : PerStation Station) : Except StageError HolePlan :=
  match rangeFailure r with
  | some f => .error (.range f)
  | none =>
    match sheetChecks r with
    | some e => .error (.plan e)
    | none =>
      match placeRow r die with
      | .error e => .error (.plan e)
      | .ok (d, n, k0) =>
        match planHanger r n stations with
        | .error e => .error (.plan e)
        | .ok h => .ok (buildPlan r d n k0 h)

/-- The answer to a computation that ends with an error (R57). -/
def StageError.answer : StageError → Answer
  | .range f => .range f.field f.group
  | .plan e => ⟨.plan, be1 (planErrorByte e)⟩

end Sys2Proof.Machine
end

