-- ==== Sys2Proof/Machine/Jobs.lean ====
section
/-! DEFINITION. Jobs in the plan slots: STAGE, STAGE INLINE, DISCARD, CHANGEOVER, END JOB (chapter 5). -/

namespace Sys2Proof.Machine

/-- The slot that is to receive a plan: the STAGED slot, else A if it is FREE, else B if it is (R79). -/
def PlanUnit.targetSlot (u : PlanUnit) : Option SlotId :=
  match u.stagedSlot with
  | some i => some i
  | none => u.findSlot PlanSlot.isFree

/-- What a slot holds as it is staged: sets in queue and counters 0 (R81). -/
def stagedJob (r : Recipe) (plan : HolePlan) (source : Source) : Job := ⟨r, plan, source, r.target, 0, {}⟩

/-- The plan is computed and, without error, placed in the target slot as STAGED (R80, R81). -/
def State.stageInto (s : State) (i : SlotId) (r : Recipe) (source : Source) : Reply :=
  match computePlan r s.plan.die s.tracker.stations with
  | .error e => (s, e.answer)
  | .ok plan =>
    (s.setSlot i (.staged (stagedJob r plan source)),
     ⟨.ok, be1 (slotIdByte i) ++ be1 plan.holes ++ beBool plan.clamped⟩)

/-- STAGE past the test of the slot number: tests 3 to 6 of R79. -/
def stageStoreSlot (n : Nat) (i : Fin 16) (s : State) : Reply :=
  match s.plan.targetSlot with
  | none => (s, .bare .busy)
  | some t =>
    if s.store.cycle.isSome then (s, .bare .busy)
    else
      match s.store.slots[i] with
      | .empty => (s, .bare .empty)
      | .corrupt => (s, .bare .corrupt)
      | .valid r => s.stageInto t r (.store n)

/-- STAGE(store slot) (R79). -/
def stageRequest (n : Nat) (s : State) : Reply :=
  if s.line.state = .unconfigured then (s, .bare .state)
  else
    match storeSlotOfNumber n with
    | none => (s, .range 0 0)
    | some i => stageStoreSlot n i s

def execStage (s : State) : Result := takeSupervisor kindStage parseByte stageRequest s

/-- STAGE INLINE(recipe) (R79, R80). -/
def stageInlineRequest (r : Recipe) (s : State) : Reply :=
  if s.line.state = .unconfigured then (s, .bare .state)
  else
    match s.plan.targetSlot with
    | none => (s, .bare .busy)
    | some t => s.stageInto t r .inlined

def execStageInline (s : State) : Result := takeSupervisor kindStageInline parseRecipe stageInlineRequest s

/-- DISCARD (R82). -/
def discardRequest (_ : Unit) (s : State) : Reply :=
  match s.plan.stagedSlot with
  | none => (s, .bare .state)
  | some i => (s.setSlot i .free, ⟨.ok, be1 (slotIdByte i)⟩)

def execDiscard (s : State) : Result := takeSupervisor kindDiscard parseNone discardRequest s

/-- The number after a set number or job number: 65535 is followed by 1 (R17, R85). -/
def nextNumberAfter (n : Nat) : Nat := if n = Config.numberMax then 1 else n + 1

/-- The old CURRENT slot at a changeover: DRAINING if it has sets in the queue, FREE if it has none (R84). -/
def PlanSlot.displace : PlanSlot → PlanSlot
  | .current n j => if 0 < j.inQueue then .draining n j else .free
  | .free => .free
  | .staged j => .staged j
  | .draining n j => .draining n j

/-- A STAGED slot becomes CURRENT with a job number, its count and counters at 0 (R85). -/
def PlanSlot.makeCurrent (number : Nat) : PlanSlot → PlanSlot
  | .staged j => .current number { j with inQueue := 0, counters := {} }
  | .free => .free
  | .current n j => .current n j
  | .draining n j => .draining n j

/-- Both slots and the job counter at a changeover (R83 to R85). -/
def PlanUnit.changeover (u : PlanUnit) : PlanUnit :=
  { u with
    slotA := u.slotA.displace.makeCurrent u.jobCounter
    slotB := u.slotB.displace.makeCurrent u.jobCounter
    jobCounter := nextNumberAfter u.jobCounter }

/-- Line control is told of a changeover (R83, R84). -/
def LineControl.changeover (l : LineControl) : LineControl :=
  match l.state with
  | .idle | .run | .drain => { l with state := .run }
  | .halt _ => { l with state := .halt .run }
  | .unconfigured => l

/-- CHANGEOVER (R83, R84). -/
def changeoverRequest (_ : Unit) (s : State) : Reply :=
  if s.line.state = .unconfigured then (s, .bare .state)
  else
    match s.plan.stagedSlot with
    | none => (s, .bare .state)
    | some i =>
      ({ s with plan := s.plan.changeover, line := s.line.changeover },
       ⟨.ok, be1 (slotIdByte i) ++ be2 s.plan.jobCounter⟩)

def execChangeover (s : State) : Result := takeSupervisor kindChangeover parseNone changeoverRequest s

/-- END JOB (R90). -/
def endJobRequest (_ : Unit) (s : State) : Reply :=
  match s.line.state with
  | .unconfigured | .idle => (s, .bare .state)
  | .run => (({ s with line := { s.line with state := .drain } } : State).releaseLine, .bare .ok)
  | .halt _ => ({ s with line := { s.line with state := .halt .drain } }, .bare .ok)
  | .drain => (s, .bare .ok)

def execEndJob (s : State) : Result := takeSupervisor kindEndJob parseNone endJobRequest s

end Sys2Proof.Machine
end

