-- ==== Sys2Proof/Machine/Lifts.lean ====
section
/-! DEFINITION. Sheet classing and lift planning (chapter 3). -/

namespace Sys2Proof.Machine

/-! ### Classing (R39 to R45) -/

/-- The group of a sheet index, found by walking the groups and counting their sheets (R39). -/
def groupOfIndex : List SheetGroup → Nat → Option SheetGroup
  | [], _ => none
  | g :: gs, i => if i < g.count then some g else groupOfIndex gs (i - g.count)

/-- The measured caliper of a reading: absent for 0, clamped at 4000 (R40). -/
def measuredOf (caliper : Nat) : Option Nat := if caliper = 0 then none else some (min caliper Config.caliperMax)

/-- The class of a measured caliper under nominal `n` and tolerance `t`: the first test of R41 that holds. The bounds
are whole numbers that may be negative (R42). -/
def classOf (n t : Nat) : Option Nat → SheetClass
  | none => .unread
  | some m =>
    if (m : Int) < (n : Int) - t then .thin
    else if m ≤ n + t then .ok
    else if 2 * (n : Int) - t ≤ m then .double
    else .thick

/-- The planning caliper: the nominal for UNREAD, otherwise the greater of reading and nominal (R43). -/
def planningOf (n : Nat) : Option Nat → Nat
  | none => n
  | some m => max m n

/-- The sheet entry of a reading at an index of a recipe; a caliper of 0 gives UNREAD (R27, R40, R41, R43). An index
below the sheet total always has a group (R39). -/
def sheetEntryOf (r : Recipe) (index caliper : Nat) : SheetEntry :=
  let g := (groupOfIndex r.groups index).getD ⟨0, 0, 0, 0⟩
  let m := measuredOf caliper
  ⟨m, classOf g.nominal g.tolerance m, planningOf g.nominal m⟩

/-- The check that a class adds (R44). -/
def classCheck : SheetClass → Option Check
  | .thin => some .thin
  | .thick => some .thick
  | .double => some .double
  | .ok | .unread => none

/-! ### Lift planning (R46 to R52) -/

/-- The end of the planner's walk: the lifts closed, and whether a ninth lift would have begun (R49). -/
structure PlanWalk where
  lifts : List Lift
  limit : Bool
  deriving DecidableEq, Repr

/-- A lift that begins at a sheet: an ordinary lift that stays open, or an overload lift of that sheet alone, which is
closed at once (R47, R48). Answers the open lift and the lifts closed. -/
def beginLift (capacity index caliper : Nat) (closed : List Lift) : Option Lift × List Lift :=
  if caliper ≤ capacity then (some ⟨index, 1, caliper, false⟩, closed)
  else (none, closed ++ [⟨index, 1, caliper, true⟩])

/-- The walk of R47 over the planning calipers from `index` on, with the lift that is open and the lifts closed so
far. -/
def walkLifts (capacity sheets : Nat) : List Nat → Nat → Option Lift → List Lift → PlanWalk
  | [], _, none, closed => ⟨closed, false⟩
  | [], _, some l, closed => ⟨closed ++ [l], false⟩
  | c :: cs, i, none, closed =>
    if closed.length = Config.liftLimit then ⟨closed, true⟩
    else
      let b := beginLift capacity i c closed
      walkLifts capacity sheets cs (i + 1) b.1 b.2
  | c :: cs, i, some l, closed =>
    if l.sum + c ≤ capacity ∧ l.count < sheets then
      walkLifts capacity sheets cs (i + 1) (some { l with count := l.count + 1, sum := l.sum + c }) closed
    else if (closed ++ [l]).length = Config.liftLimit then ⟨closed ++ [l], true⟩
    else
      let b := beginLift capacity i c (closed ++ [l])
      walkLifts capacity sheets cs (i + 1) b.1 b.2

/-- The planner's result for a set: its lift plan, absent under LIFT_LIMIT, and the checks it adds (R48, R49). -/
structure LiftResult where
  plan : Option (List Lift)
  overload : Bool
  limit : Bool
  deriving DecidableEq, Repr

/-- The lift planner (R46 to R49). -/
def planLifts (r : Recipe) (sheets : List SheetEntry) : LiftResult :=
  let w := walkLifts r.liftCapacity r.liftSheets (sheets.map (·.planning)) 0 none []
  ⟨if w.limit then none else some w.lifts, w.lifts.any (·.overload), w.limit⟩

/-- Writes the planner's result into a set record (R51). -/
def SetRecord.withLifts (x : SetRecord) (r : LiftResult) : SetRecord :=
  { x with
    liftPlan := r.plan
    checks := (x.checks.addIf r.overload .liftOverload).addIf r.limit .liftLimit }

end Sys2Proof.Machine
end

