-- ==== Sys2Proof/Machine/Collator.lean ====
section
/-! DEFINITION. The collator's requests: OPEN, SHEET, CLOSE, ABANDON (chapter 2). -/

namespace Sys2Proof.Machine

/-! ### OPEN (R17, R21, R22) -/

/-- The next set number, advanced past the numbers in the queue; at most as many advances as there are records (R17). -/
def freshNumber (used : List Nat) : Nat → Nat → Nat
  | 0, n => n
  | k + 1, n => if n ∈ used then freshNumber used k (nextNumberAfter n) else n

/-- The set number of the next OPEN that is taken (R17). -/
def SetTracker.freshNumber (t : SetTracker) : Nat :=
  Sys2Proof.Machine.freshNumber (t.queue.map (·.number)) t.queue.length t.nextNumber

/-- The quota of a slot allows another set (R87). -/
def Job.quotaAllows (j : Job) : Bool := j.target == 0 || decide (j.counters.accepted.toNat + j.inQueue < j.target)

/-- The initial progress of a role (R99). -/
def initialProgress (style : HangerStyle) : StationRole → Progress
  | .notch => if style = .cut then .waiting else .passing
  | .drill => if style = .drill then .waiting else .passing
  | .punch | .binder | .gate => .waiting

/-- The progress entry of a role at OPEN, for a role the station table holds (R99). -/
def initialEntry (stations : PerStation Station) (style : HangerStyle) (r : StationRole) : Option Progress :=
  if rolePresent stations r then some (initialProgress style r) else none

/-- The progress entries of a new record: one for each of the five roles of R99's list that the table holds, so three to
five. The manual's counts of four to six (sections 2.2, 6.5) disagree with that list; the list is the model's choice (log
entry 25). -/
def initialEntries (stations : PerStation Station) (style : HangerStyle) : ProgressEntries where
  punch := initialEntry stations style .punch
  notch := initialEntry stations style .notch
  drill := initialEntry stations style .drill
  binder := initialEntry stations style .binder
  gate := initialEntry stations style .gate

/-- The record that OPEN creates (R22). -/
def newRecord (number : Nat) (slot : SlotId) (progress : ProgressEntries) : SetRecord where
  number := number
  slot := slot
  state := .gathering
  sheets := []
  liftPlan := none
  liftsDone := 0
  progress := progress
  checks := {}
  commanded := none
  taken := none

/-- One more set opened under a slot (R86). -/
def Job.countOpened (j : Job) : Job :=
  { j with inQueue := j.inQueue + 1, counters := { j.counters with opened := j.counters.opened + 1 } }

/-- The state after a taken OPEN under slot `i` (R17, R22, R23, R86). -/
def State.openUnder (s : State) (i : SlotId) : State :=
  let n := s.tracker.freshNumber
  { s with
    tracker := { s.tracker with
      queue := s.tracker.queue ++ [newRecord n i (initialEntries s.tracker.stations (s.slotRecipe i).style)]
      nextNumber := nextNumberAfter n
      lastOpened := some n }
    plan := s.plan.setSlot i ((s.plan.slot i).mapJob Job.countOpened) }

/-- OPEN (R21, R22). In RUN a slot is always CURRENT (R21); without one the answer is STATE (log entry 18). -/
def openRequest (_ : Unit) (_ : Position) (s : State) : Reply :=
  if s.line.state ≠ .run then (s, .bare .state)
  else if Config.queueDepth ≤ s.tracker.queue.length then (s, .bare .full)
  else if s.gatheringSet.isSome then (s, .bare .busy)
  else
    match s.plan.currentSlot with
    | none => (s, .bare .state)
    | some i =>
      if ((s.plan.slot i).job?.map Job.quotaAllows).getD false then
        (s.openUnder i, ⟨.ok, be2 s.tracker.freshNumber ++ be1 (s.slotRecipe i).sheetTotal⟩)
      else (s, .bare .quota)

def execOpen (p : StationPort) (s : State) : Result := takeCollator p kindOpen parseNone openRequest s

/-! ### SHEET (R24 to R27) -/

/-- The UNREAD entries for the indices from `i` on, `k` of them (R27). -/
def unreadEntries (r : Recipe) : Nat → Nat → List SheetEntry
  | 0, _ => []
  | k + 1, i => sheetEntryOf r i 0 :: unreadEntries r k (i + 1)

/-- Adds the check of a class, if it adds one (R44). -/
def CheckWord.addClass (w : CheckWord) (c : SheetClass) : CheckWord :=
  match classCheck c with
  | none => w
  | some k => w.add k

/-- A record with a sheet recorded under R27: skipped indices filled, the reported sheet appended. -/
def SetRecord.recordSheet (x : SetRecord) (r : Recipe) (index caliper : Nat) : SetRecord :=
  let e := sheetEntryOf r index caliper
  { x with
    sheets := x.sheets ++ unreadEntries r (index - x.sheets.length) x.sheets.length ++ [e]
    checks := (x.checks.addIf (decide (x.sheets.length < index) || caliper == 0) .gaugeGap).addClass e.sheetClass }

/-- A SHEET that passes the tests of R24, handled by the first of R25, R26, R27 whose condition holds. -/
def takeSheet (c : SheetParams) (x : SetRecord) (s : State) : Reply :=
  let r := s.slotRecipe x.slot
  if c.index < x.sheets.length then (s, .bare .duplicate)
  else if r.sheetTotal ≤ c.index then (s.updateSet c.set fun y => y.addCheck .long, .bare .ok)
  else (s.updateSet c.set fun y => y.recordSheet r c.index c.caliper, .bare .ok)

/-- SHEET(set, index, caliper) (R24). -/
def sheetRequest (c : SheetParams) (_ : Position) (s : State) : Reply :=
  match s.findSet c.set with
  | none => (s, s.missingSet c.set)
  | some x =>
    if !x.isGathering then (s, .bare .state)
    else if Config.sheetLimit ≤ c.index then (s, .range 2 0)
    else takeSheet c x s

def execSheet (p : StationPort) (s : State) : Result := takeCollator p kindSheet parseSheet sheetRequest s

/-! ### CLOSE (R28 to R31, R13) -/

/-- The entry position of the youngest travelling set other than the one being closed (R30). -/
def State.entryAhead (s : State) (n : Nat) : Option Position :=
  ((s.tracker.queue.filter fun x => x.number ≠ n).filterMap SetRecord.entry?).getLast?

/-- The set closes nearer than the minimum spacing behind the set ahead (R30). -/
def State.isCrowded (s : State) (n : Nat) (entry : Position) : Bool :=
  (s.entryAhead n).any fun e => decide ((entry - e).toNat < s.tracker.lineConfig.spacing)

/-- The record of a taken CLOSE: TRAVELLING, with SHORT, CROWDED and the lift plan (R29 to R31). -/
def SetRecord.closeAt (x : SetRecord) (r : Recipe) (entry : Position) (crowded : Bool) : SetRecord :=
  ({ x with
    state := .travelling entry
    checks := (x.checks.addIf (decide (x.sheets.length < r.sheetTotal)) .short).addIf crowded .crowded } :
    SetRecord).withLifts (planLifts r x.sheets)

/-- The state after a taken CLOSE of record `x`: boundaries its travel distance already exceeds are crossed last (R31,
R13). -/
def State.closeRecord (s : State) (x : SetRecord) (entry : Position) : State :=
  let y := x.closeAt (s.slotRecipe x.slot) entry (s.isCrowded x.number entry)
  (s.updateSet x.number fun _ => y).crossSet x.number 0 (s.position.tracking - entry).toNat

/-- CLOSE(set), with the capture position of its frame (R28, R29). -/
def closeRequest (n : Nat) (capture : Position) (s : State) : Reply :=
  match s.findSet n with
  | none => (s, s.missingSet n)
  | some x =>
    if !x.isGathering then (s, .bare .state)
    else if x.sheets = [] then (s, .bare .empty)
    else
      (s.closeRecord x capture,
       ⟨.ok, be1 (x.closeAt (s.slotRecipe x.slot) capture (s.isCrowded x.number capture)).liftCount⟩)

def execClose (p : StationPort) (s : State) : Result := takeCollator p kindClose parseSet closeRequest s

/-! ### ABANDON (R32) -/

/-- ABANDON(set) (R32). -/
def abandonRequest (n : Nat) (_ : Position) (s : State) : Reply :=
  match s.findSet n with
  | none => (s, s.missingSet n)
  | some x => if !x.isGathering then (s, .bare .state) else (s.leave .abandon x, .bare .ok)

def execAbandon (p : StationPort) (s : State) : Result := takeCollator p kindAbandon parseSet abandonRequest s

end Sys2Proof.Machine
end

