-- ==== Sys2Proof/Machine/Encoder.lean ====
section
/-! DEFINITION. QUADRATURE_EDGE: the encoder, the divider and the two positions (chapter 1). -/

namespace Sys2Proof.Machine

/-- The pair that follows in the forward sequence low-low, high-low, high-high, low-high (R1). -/
def nextPair (q : PhasePair) : PhasePair := ⟨!q.b, q.a⟩

/-- A forward count (R3 to R6): P advances; with the reverse depth 0 before it, T steps and the crossings are offered;
a count that brings the depth back to 0 arms REVERSE. -/
def State.forwardCount (s : State) : State :=
  let p := s.position
  let raw := p.raw + 1
  if p.reverseDepth = 0 then
    ({ s with position := { p with raw := raw, tracking := raw } } : State).offerCrossings p.tracking raw
  else
    { s with position := { p with raw := raw, armed := p.armed || p.tracking == raw } }

/-- A reverse count (R3, R5, R6): P falls; a depth above the reverse limit while REVERSE is armed hands the cause over
and disarms it. -/
def State.reverseCount (s : State) : State :=
  let p := { s.position with raw := s.position.raw - 1 }
  if p.armed ∧ s.tracker.lineConfig.reverseLimit < p.reverseDepth.toNat then
    ({ s with position := { p with armed := false } } : State).handCause .reverse
  else { s with position := p }

/-- A quadrature edge reaches the divider, which may issue a count (R2). -/
def State.dividerEdge (s : State) (dir : Direction) : State :=
  let kept := if s.position.tallyDirection = some dir then s.position.tally else 0
  let full := s.tracker.lineConfig.divider ≤ kept + 1
  let s' := { s with position := { s.position with
    tally := if full then 0 else kept + 1
    tallyDirection := some dir } }
  if full then
    match dir with
    | .forward => s'.forwardCount
    | .reverse => s'.reverseCount
  else s'

/-- A phase pair is compared with the reference (R1). A pair equal to the reference is no change (log entry 16). -/
def State.newPair (s : State) (pair : PhasePair) : State :=
  let old := s.position.reference
  let s' := { s with position := { s.position with reference := pair } }
  if pair = old then s
  else if pair = nextPair old then s'.dividerEdge .forward
  else if old = nextPair pair then s'.dividerEdge .reverse
  else { s' with position := { s'.position with encoderLatch := true } }

/-- QUADRATURE_EDGE (R1). -/
def execQuadratureEdge (pair : PhasePair) (s : State) : Result := .next (s.newPair pair).driveAttn

end Sys2Proof.Machine
end

