-- ==== Sys2Proof/Machine/LineCommands.lean ====
section
/-! DEFINITION. STOP, RESUME and PURGE (R148, R149, R35). -/

namespace Sys2Proof.Machine

/-- STOP (R148). -/
def stopRequest (_ : Unit) (s : State) : Reply :=
  match s.line.state with
  | .unconfigured | .idle => (s, .bare .state)
  | .run | .drain | .halt _ => (s.handCause .operator, .bare .ok)

def execStop (s : State) : Result := takeSupervisor kindStop parseNone stopRequest s

/-- The line state that a return state stands for. -/
def lineStateOfReturn : ReturnState → LineState
  | .run => .run
  | .drain => .drain

/-- The line leaves HALT for its return state: causes and reject-run count are cleared and LSTOP is released; from DRAIN
with the queue empty it goes on to IDLE (R149, R151, R136). -/
def State.leaveHalt (s : State) (ret : ReturnState) : State :=
  ({ s with
    line := { s.line with state := lineStateOfReturn ret, causes := {}, lstop := false }
    verdict := { s.verdict with rejectRun := 0 } } : State).releaseLine

/-- RESUME (R149). -/
def resumeRequest (_ : Unit) (s : State) : Reply :=
  match s.line.state with
  | .halt ret => (s.leaveHalt ret, ⟨.ok, be1 (lineStateByte (s.leaveHalt ret).line.state)⟩)
  | .unconfigured | .idle | .run | .drain => (s, .bare .state)

def execResume (s : State) : Result := takeSupervisor kindResume parseNone resumeRequest s

/-- PURGE: in HALT every set leaves the queue, in queue order (R35). -/
def purgeRequest (_ : Unit) (s : State) : Reply :=
  if s.line.state.isHalt then
    (s.tracker.queue.foldl (fun t x => t.leave .purge x) s, ⟨.ok, be1 s.tracker.queue.length⟩)
  else (s, .bare .state)

def execPurge (s : State) : Result := takeSupervisor kindPurge parseNone purgeRequest s

end Sys2Proof.Machine
end

