-- ==== Sys2Proof/Machine/LineSetup.lean ====
section
/-! DEFINITION. SET LINE, SET STATION, SET DIE and SET RULES, and the validation of the configuration (R54, R55, R94 to
R97, R128). -/

namespace Sys2Proof.Machine

/-! ### Validation (R96, R97) -/

/-- How many ports hold a role. -/
def roleCount (stations : PerStation Station) (role : Role) : Nat := (portsWith stations role).length

/-- The first port, in increasing number, whose station role and entry a test holds of. -/
def firstStation (stations : PerStation Station) (test : StationRole → Station → Bool) : Option StationPort :=
  stationPorts.find? fun p =>
    match (stations.get p).role.stationRole with
    | none => false
    | some r => test r (stations.get p)

/-- The first of the punch, the notch unit and the drill whose A is not less than the binder's (R96, order 9). -/
def finishOrderFailure (stations : PerStation Station) : Option StationPort :=
  match stationWith stations (.station .binder) with
  | none => none
  | some b =>
    (([.punch, .notch, .drill] : List StationRole).flatMap fun r => portsWith stations (.station r)).find? fun p =>
      b.arrive ≤ (stations.get p).arrive

/-- The first station before the gate whose Z exceeds A_gate - Tol_gate (R96, order 10). -/
def gateClearanceFailure (stations : PerStation Station) : Option StationPort :=
  match stationWith stations (.station .gate) with
  | none => none
  | some g => firstStation stations fun r e => r != .gate && decide ((g.arrive : Int) - g.tol < e.close)

/-- The largest Tol among the stations of roles PUNCH to GATE (R96, order 11). -/
def largestTol (stations : PerStation Station) : Nat :=
  stationPorts.foldl (fun m p =>
    match (stations.get p).role.stationRole with
    | none => m
    | some _ => max m (stations.get p).tol) 0

/-- The conditions on role counts, orders 1 to 6. -/
def countFailure (stations : PerStation Station) : Option ConfigResult :=
  if roleCount stations .collator ≠ 1 then some .collatorCount
  else if roleCount stations (.station .punch) ≠ 1 then some .punchCount
  else if roleCount stations (.station .binder) ≠ 1 then some .binderCount
  else if roleCount stations (.station .gate) ≠ 1 then some .gateCount
  else if 1 < roleCount stations (.station .notch) then some .notchCount
  else if 1 < roleCount stations (.station .drill) then some .drillCount
  else none

/-- A configuration result with the port it gives, if it gives one (R96). -/
structure Validation where
  result : ConfigResult
  port : Option StationPort
  deriving DecidableEq, Repr

/-- The conditions on windows, orders 7 to 10: the first that some port fails. -/
def windowFailure (stations : PerStation Station) : Option Validation :=
  match firstStation stations fun _ e => e.arrive ≤ e.tol with
  | some p => some ⟨.windowOpen, some p⟩
  | none =>
    match firstStation stations fun _ e => e.close < e.arrive + e.tol with
    | some p => some ⟨.windowClose, some p⟩
    | none =>
      match finishOrderFailure stations with
      | some p => some ⟨.finishOrder, some p⟩
      | none => (gateClearanceFailure stations).map fun p => ⟨.gateClearance, some p⟩

/-- The configuration result: the first condition of R96 that fails, or OK. -/
def validate (stations : PerStation Station) (cfg : LineConfig) : Validation :=
  match countFailure stations with
  | some r => ⟨r, none⟩
  | none =>
    match windowFailure stations with
    | some v => v
    | none => if cfg.spacing ≤ 2 * largestTol stations then ⟨.spacing, none⟩ else ⟨.ok, none⟩

/-- Line control moves the line between UNCONFIGURED and IDLE (R97). -/
def LineControl.validated (l : LineControl) (valid : Bool) : LineControl :=
  match l.state with
  | .unconfigured | .idle => { l with state := if valid then .idle else .unconfigured }
  | .run | .drain | .halt _ => l

/-- The configuration is validated, and the taken request answered OK with the result (R97). -/
def State.revalidate (s : State) : Reply :=
  let v := validate s.tracker.stations s.tracker.lineConfig
  ({ s with line := s.line.validated (v.result == .ok) },
   ⟨.ok, be1 (configResultByte v.result) ++ be1 ((v.port.map stationNumber).getD 0)⟩)

/-- SET LINE, SET STATION and SET DIE are taken in UNCONFIGURED and IDLE (R54, R94, R95). -/
def LineState.isSetup : LineState → Bool
  | .unconfigured | .idle => true
  | .run | .drain | .halt _ => false

/-! ### SET LINE (R95, R8, R136) -/

/-- The first field of a SET LINE that is out of range (R95). -/
def lineConfigFailure (c : LineConfig) : Option FieldRef :=
  firstFailure
    [(c.divider == 1 || c.divider == 2 || c.divider == 4, ⟨1, 0⟩), (inRange 10 2000 c.reverseLimit, ⟨2, 0⟩),
     (inRange 100 20000 c.spacing, ⟨3, 0⟩), (inRange 0 255 c.rejectLimit, ⟨4, 0⟩)]

/-- The write of a taken SET LINE: the four fields, the divider tally (R8) and the reject-run count (R136). -/
def State.writeLine (s : State) (c : LineConfig) : State :=
  { s with
    tracker := { s.tracker with lineConfig := c }
    position := { s.position with tally := 0 }
    verdict := { s.verdict with rejectRun := 0 } }

/-- SET LINE(divider, reverse limit, spacing, reject-run limit) (R95). -/
def setLineRequest (c : LineConfig) (s : State) : Reply :=
  if !s.line.state.isSetup then (s, .bare .state)
  else
    match lineConfigFailure c with
    | some f => (s, .range f.field f.group)
    | none => (s.writeLine c).revalidate

def execSetLine (s : State) : Result := takeSupervisor kindSetLine parseSetLine setLineRequest s

/-! ### SET STATION (R94, R55) -/

/-- The first of A, Z and Tol that is out of range (R94). -/
def windowParamFailure (c : StationParams) : Option FieldRef :=
  firstFailure [(inRange 0 65000 c.arrive, ⟨3, 0⟩), (inRange 0 65000 c.close, ⟨4, 0⟩), (inRange 1 500 c.tol, ⟨5, 0⟩)]

/-- The table entry of a SET STATION: A, Z and Tol are 0 for NONE and COLLATOR (R94). -/
def stationEntry (role : Role) (c : StationParams) : Station :=
  match role with
  | .none | .collator => ⟨role, 0, 0, 0⟩
  | .station _ => ⟨role, c.arrive, c.close, c.tol⟩

/-- The STAGED plan's hanger station is absent from the table (R55). -/
def PlanSlot.lacksHanger (stations : PerStation Station) : PlanSlot → Bool
  | .staged j =>
    match j.recipe.style with
    | .cut => !rolePresent stations .notch
    | .drill => !rolePresent stations .drill
    | .none => false
  | .free | .current _ _ | .draining _ _ => false

/-- The plan unit examines the STAGED plan against the table (R55). -/
def State.examineStaged (s : State) : State :=
  if s.plan.slotA.lacksHanger s.tracker.stations || s.plan.slotB.lacksHanger s.tracker.stations then
    { s with plan := s.plan.discardStaged }
  else s

/-- The write of a taken SET STATION: the port's entry whole, and its miss count (R94). -/
def State.writeStation (s : State) (p : StationPort) (e : Station) : State :=
  { s with tracker := { s.tracker with
    stations := s.tracker.stations.set p e
    missCounts := s.tracker.missCounts.set p 0 } }

/-- SET STATION with a port and a role that are in range (R94). -/
def setStationChecked (p : StationPort) (role : Role) (c : StationParams) (s : State) : Reply :=
  match (if role.stationRole.isSome then windowParamFailure c else none) with
  | some f => (s, .range f.field f.group)
  | none => ((s.writeStation p (stationEntry role c)).examineStaged).revalidate

/-- SET STATION(port, role, A, Z, Tol) (R94). -/
def setStationRequest (c : StationParams) (s : State) : Reply :=
  if !s.line.state.isSetup then (s, .bare .state)
  else
    match stationOfNumber c.port with
    | none => (s, .range 1 0)
    | some p =>
      match roleOfByte c.role with
      | none => (s, .range 2 0)
      | some role => setStationChecked p role c s

def execSetStation (s : State) : Result := takeSupervisor kindSetStation parseSetStation setStationRequest s

/-! ### SET DIE (R54) -/

/-- The first die field that is out of range (R53, R54). -/
def dieFailure (d : Die) : Option FieldRef :=
  firstFailure
    [(inRange 8 64 d.pins, ⟨1, 0⟩), (inRange 400 2000 d.pitch, ⟨2, 0⟩), (inRange 0 20000 d.offset, ⟨3, 0⟩),
     (inRange 0 20000 d.travel, ⟨4, 0⟩)]

/-- SET DIE(D, Pd, O0, Smax): the record is replaced and a STAGED plan discarded (R54). -/
def setDieRequest (d : Die) (s : State) : Reply :=
  if !s.line.state.isSetup then (s, .bare .state)
  else
    match dieFailure d with
    | some f => (s, .range f.field f.group)
    | none => ({ s with plan := { s.plan.discardStaged with die := some d } }, ⟨.ok, beBool s.plan.stagedSlot.isSome⟩)

def execSetDie (s : State) : Result := takeSupervisor kindSetDie parseSetDie setDieRequest s

/-! ### SET RULES (R128) -/

/-- A rule as carried, or the first of its fields that fails: test (2), mask (3), outlet (4). -/
def checkRule (place : Nat) (c : RuleParams) : Except FieldRef VerdictRule :=
  match testOfByte c.test with
  | none => .error ⟨2, place⟩
  | some t =>
    match checksOfMask c.mask with
    | none => .error ⟨3, place⟩
    | some m =>
      match outletOfByte c.outlet with
      | none => .error ⟨4, place⟩
      | some o => .ok ⟨t, m, o⟩

/-- The rules in order, or the first field that fails; `place` counts from 1. -/
def checkRules : Nat → List RuleParams → Except FieldRef (List VerdictRule)
  | _, [] => .ok []
  | place, c :: cs =>
    match checkRule place c with
    | .error f => .error f
    | .ok r =>
      match checkRules (place + 1) cs with
      | .error f => .error f
      | .ok rs => .ok (r :: rs)

/-- SET RULES(count, rules): the list is replaced whole (R128). -/
def setRulesRequest (c : Nat × List RuleParams) (s : State) : Reply :=
  if Config.ruleLimit < c.1 then (s, .range 1 0)
  else
    match checkRules 1 c.2 with
    | .error f => (s, .range f.field f.group)
    | .ok rs => ({ s with verdict := { s.verdict with rules := rs } }, ⟨.ok, be1 c.1⟩)

def execSetRules (s : State) : Result := takeSupervisor kindSetRules parseSetRules setRulesRequest s

end Sys2Proof.Machine
end

