-- ==== Sys2Proof/Machine/Power.lean ====
section
/-! DEFINITION. RESET and SUPPLY_LOSS (R9, R143, R144, R155, R161, R171). -/

namespace Sys2Proof.Machine

/-- The store after a reset or a loss of supply: the slot being written is CORRUPT, the others are as they were, the
store is READY with no last result (R155, R161). -/
def RecipeStore.interrupted (r : RecipeStore) : RecipeStore where
  slots :=
    match r.cycle with
    | none => r.slots
    | some c => r.slots.set c.slot .corrupt
  cycle := none
  lastResult := none

/-- RESET: every block takes its reset values; `pair` is the phase pair present as reset is released (R9, R144). -/
def execReset (pair : PhasePair) (s : State) : Result :=
  .next (State.afterReset pair s.store.interrupted s.pending)

/-- SUPPLY_LOSS: the store is interrupted as by a reset (R161) and everything volatile is lost. Until the power-on
RESET that follows, the model holds the volatile state at its reset values (log entry 9). -/
def execSupplyLoss (s : State) : Result :=
  .next (State.afterReset s.position.reference s.store.interrupted s.pending)

end Sys2Proof.Machine
end

