-- ==== Sys2Proof/Machine/Reading.lean ====
section
/-! DEFINITION. What the supervisor reads and marks: MARK SAMPLE, READ STATUS, READ SET, READ PLAN, READ HISTORY, REWIND,
READ PORT STATUS (R36, R37, R77, R140, R141, R154, R170). -/

namespace Sys2Proof.Machine

/-- MARK SAMPLE(set) (R37). -/
def markSampleRequest (n : Nat) (s : State) : Reply :=
  match s.findSet n with
  | none => (s, .bare .noSet)
  | some x =>
    if x.progress.gate = some .waiting then (s.updateSet n fun y => y.addCheck .sample, .bare .ok)
    else (s, .bare .late)

def execMarkSample (s : State) : Result := takeSupervisor kindMarkSample parseSet markSampleRequest s

/-- Clears the JOB_DONE, STORE_END and ENCODER latches (R154). -/
def State.clearLatches (s : State) : State :=
  { s with
    line := { s.line with jobDone := false, storeEnd := false }
    position := { s.position with encoderLatch := false } }

/-- READ STATUS: the answer is formed, then the latches are cleared (R154). -/
def readStatusRequest (_ : Unit) (s : State) : Reply := (s.clearLatches, ⟨.ok, statusBytes s⟩)

def execReadStatus (s : State) : Result := takeSupervisor kindReadStatus parseNone readStatusRequest s

/-- READ SET(set) (R36). -/
def readSetRequest (n : Nat) (s : State) : Reply :=
  match s.findSet n with
  | none => (s, .bare .noSet)
  | some x => (s, ⟨.ok, setRecordBytes s.position.tracking x⟩)

def execReadSet (s : State) : Result := takeSupervisor kindReadSet parseSet readSetRequest s

/-- What READ PLAN answers of a slot that is not FREE. A die record is present whenever such a slot is (R54); without
one its fields are 0 (log entry 18). -/
def planAnswer (x : PlanSlot) (j : Job) (die : Option Die) : Answer :=
  ⟨.ok, be1 (planSlotStateByte x) ++ be1 (sourceByte j.source) ++ recipeBytes j.recipe ++
    dieBytes (die.getD ⟨0, 0, 0, 0⟩) ++ holePlanBytes j.plan⟩

/-- READ PLAN(slot) (R77). -/
def readPlanRequest (n : Nat) (s : State) : Reply :=
  match slotOfByte n with
  | none => (s, .range 1 0)
  | some i =>
    match (s.plan.slot i).job? with
    | none => (s, .bare .empty)
    | some j => (s, planAnswer (s.plan.slot i) j s.plan.die)

def execReadPlan (s : State) : Result := takeSupervisor kindReadPlan parseByte readPlanRequest s

/-- The answer of READ HISTORY with an entry and a gap count (R140). -/
def historyAnswer (gap : Nat) (e : HistoryEntry) : Answer := ⟨.ok, be4 gap ++ historyEntryBytes e⟩

/-- The lag of the read pointer: (X - pointer) modulo 2^32 (R139). -/
def VerdictUnit.lag (v : VerdictUnit) : Nat := (v.nextExit - v.readPointer).toNat

/-- The entry whose exit number equals the read pointer, if the history holds it (R140). -/
def VerdictUnit.pointed (v : VerdictUnit) : Option HistoryEntry := v.history.find? fun e => e.exitNumber = v.readPointer

/-- READ HISTORY by the three cases of R140. A history that lacks the entry a case names (log entry 18) is answered
EMPTY. -/
def readHistoryRequest (_ : Unit) (s : State) : Reply :=
  let v := s.verdict
  if v.lag = 0 then (s, .bare .empty)
  else if v.lag ≤ v.history.length then
    match v.pointed with
    | none => (s, .bare .empty)
    | some e => ({ s with verdict := { v with readPointer := v.readPointer + 1 } }, historyAnswer 0 e)
  else
    match v.history.head? with
    | none => (s, .bare .empty)
    | some e =>
      ({ s with verdict := { v with readPointer := e.exitNumber + 1 } }, historyAnswer (v.lag - v.history.length) e)

def execReadHistory (s : State) : Result := takeSupervisor kindReadHistory parseNone readHistoryRequest s

/-- Where REWIND sets the read pointer: O, or X when the history is empty (R141). -/
def VerdictUnit.rewindTo (v : VerdictUnit) : Counter := (v.history.head?.map (·.exitNumber)).getD v.nextExit

/-- REWIND (R141). -/
def rewindRequest (_ : Unit) (s : State) : Reply :=
  ({ s with verdict := { s.verdict with readPointer := s.verdict.rewindTo } }, ⟨.ok, be4 s.verdict.rewindTo.toNat⟩)

def execRewind (s : State) : Result := takeSupervisor kindRewind parseNone rewindRequest s

/-- The role that READ PORT STATUS reports of a port (R170). -/
def reportedRole (s : State) : Port → Nat
  | .supervisor => supervisorRoleByte
  | .station p => roleByte (s.station p).role

/-- READ PORT STATUS(port): the flags are reported, then cleared (R170). -/
def readPortStatusRequest (n : Nat) (s : State) : Reply :=
  match portOfNumber n with
  | none => (s, .range 1 0)
  | some p =>
    (s.updatePort p PortState.clearFlags, ⟨.ok, be1 n ++ be1 (reportedRole s p) ++ be1 (flagMask (s.port p))⟩)

def execReadPortStatus (s : State) : Result := takeSupervisor kindReadPortStatus parseByte readPortStatusRequest s

end Sys2Proof.Machine
end

