-- ==== Sys2Proof/Machine/Serial.lean ====
section
/-! DEFINITION. The serial side of a port: receiving characters (R164, R165), the gap timeout, the end of an answer's
transmission, and frames of unknown kind (R166, R167). -/

namespace Sys2Proof.Machine

/-- The frame so far is dropped: FRAME_ERROR is set and the receiver hunts (R164). -/
def PortState.discardFrame (q : PortState) : PortState := { q with receiver := .hunt, frameError := true }

/-- The frame of kind and payload bytes. -/
def frameOf (capture : Position) : List Byte → Frame
  | [] => ⟨0, [], capture⟩
  | k :: payload => ⟨k, payload, capture⟩

/-- A complete frame is appended to the input buffer, or discarded for OVERRUN when the buffer holds 4 (R165). -/
def PortState.completeFrame (q : PortState) (f : Frame) : PortState :=
  if q.buffer.length < Config.bufferDepth then { q with receiver := .hunt, buffer := q.buffer ++ [f] }
  else { q with receiver := .hunt, overrun := true }

/-- A byte reaches the receiver while T is `t` (R164). -/
def PortState.receiveByte (q : PortState) (t : Position) (b : Byte) : PortState :=
  match q.receiver with
  | .hunt => if b = leadByte then { q with receiver := .length t } else q
  | .length c => if 1 ≤ b.toNat ∧ b.toNat ≤ 128 then { q with receiver := .body c b.toNat [] } else q.discardFrame
  | .body c n bytes =>
    if (bytes ++ [b]).length < n then { q with receiver := .body c n (bytes ++ [b]) }
    else { q with receiver := .check c n (bytes ++ [b]) }
  | .check c n bytes =>
    if byteSum (BitVec.ofNat 8 n :: bytes ++ [b]) = 0 then q.completeFrame (frameOf c bytes) else q.discardFrame

/-- A bad character reaches the receiver (R164). -/
def PortState.receiveBad (q : PortState) : PortState :=
  match q.receiver with
  | .hunt => q
  | .length _ | .body _ _ _ | .check _ _ _ => q.discardFrame

/-- A character reaches the receiver while T is `t` (R164). -/
def PortState.receive (q : PortState) (t : Position) : Character → PortState
  | .byte b => q.receiveByte t b
  | .bad => q.receiveBad

/-- A character is received on a port (R14, R164). -/
def State.receiveCharacter (s : State) (p : Port) (c : Character) : State :=
  (s.updatePort p fun q => q.receive s.position.tracking c).driveAttn

/-- FRAME_RECEIVED: a character by which the receiver ends a frame (R164, R165). -/
def execFrameReceived (p : Port) (c : Character) (s : State) : Result := .next (s.receiveCharacter p c)

/-- CHARACTER_RECEIVED: a character that neither completes nor drops a frame (R164). What a character does, the
receiver decides (log entry 3). -/
def execCharacterReceived (p : Port) (c : Character) (s : State) : Result := .next (s.receiveCharacter p c)

/-- The gap limit is passed: outside HUNT the frame is discarded (R164); in HUNT no gap is timed. -/
def PortState.gapTimeout (q : PortState) : PortState :=
  match q.receiver with
  | .hunt => q
  | .length _ | .body _ _ _ | .check _ _ _ => q.discardFrame

/-- FRAME_GAP_TIMEOUT (R164). -/
def execFrameGapTimeout (p : Port) (s : State) : Result := .next (s.updatePort p PortState.gapTimeout).driveAttn

/-- ANSWER_SENT: the answer at the head of the queue has been sent and is removed (R166). -/
def execAnswerSent (p : Port) (s : State) : Result :=
  .next (s.updatePort p fun q => { q with answers := q.answers.tail }).driveAttn

/-- UNKNOWN_KIND: a frame whose kind names no request of its port is taken and answered ROLE (R167). -/
def execUnknownKind (p : Port) (s : State) : Result :=
  takeFrame p (fun k => !kindOfPort p k) (fun _ t => (t, .bare .role)) s

end Sys2Proof.Machine
end

