-- ==== Sys2Proof/Machine/Stations.lean ====
section
/-! DEFINITION. The stations' requests: EDGE with its work records and the commanded outlet, and the reports LIFT, DONE,
FAULT, DIVERTED (chapters 6, 7, 8). -/

namespace Sys2Proof.Machine

/-! ### The commanded outlet (R129) -/

/-- A rule matches a check word (R129). -/
def VerdictRule.matchesWord (r : VerdictRule) (w : CheckWord) : Bool :=
  match r.test with
  | .any => allChecks.any fun c => r.mask.has c && w.has c
  | .all => allChecks.all fun c => !r.mask.has c || w.has c

/-- The commanded outlet of a check word under a rule list (R129). -/
def commandedOutlet (rules : List VerdictRule) (w : CheckWord) : GateOutlet :=
  if w.isEmpty then .accept
  else
    match rules.find? fun r => r.matchesWord w with
    | some r => r.outlet
    | none => .reject

/-! ### Matching (R104 to R106) -/

/-- The distance of an edge at position `p` from a set's expected edge at the station: |d_p - A| (R105). -/
def edgeMiss (p entry : Position) (arrive : Nat) : Nat := ((p - entry).toInt - arrive).natAbs

/-- The nearness of a set to an edge at `p` of the station, if the set is a candidate (R105). -/
def candidateNearness (e : Station) (r : StationRole) (p : Position) (x : SetRecord) : Option Nat :=
  match x.state, x.progress.get r with
  | .travelling entry, some .waiting | .travelling entry, some .passing =>
    if edgeMiss p entry e.arrive ≤ e.tol then some (edgeMiss p entry e.arrive) else none
  | _, _ => none

/-- The nearer of the candidate found so far and a record further back in the queue; the older wins a tie (R106). -/
def nearerCandidate (e : Station) (r : StationRole) (p : Position) (best : Option (SetRecord × Nat)) (x : SetRecord) :
    Option (SetRecord × Nat) :=
  match candidateNearness e r p x with
  | none => best
  | some d =>
    match best with
    | none => some (x, d)
    | some (y, d') => if d < d' then some (x, d) else some (y, d')

/-- The chosen set of an edge (R106). -/
def chosenSet (queue : List SetRecord) (e : Station) (r : StationRole) (p : Position) : Option SetRecord :=
  (queue.foldl (nearerCandidate e r p) none).map Prod.fst

/-! ### Work records (R109 to R116, R130) -/

/-- What a WAITING match makes of the chosen set, and the work record. -/
abbrev MatchResult := SetRecord × WorkRecord

/-- The punch: SKIP under LIFT_OVERLOAD or LIFT_LIMIT, PUNCH otherwise (R110, R111). -/
def punchMatch (plan : HolePlan) (x : SetRecord) : MatchResult :=
  if x.checks.liftOverload || x.checks.liftLimit then (x.setProgress .punch .skipped, .skip)
  else (x.setProgress .punch .atStation, .punch plan.guide plan.pins (x.liftPlan.getD []))

/-- The notch unit (R112). -/
def notchMatch (plan : HolePlan) (x : SetRecord) : MatchResult :=
  (x.setProgress .notch .atStation, .notch (plan.notch.getD (0, 0)).1 (plan.notch.getD (0, 0)).2)

/-- The drill (R113). -/
def drillMatch (plan : HolePlan) (x : SetRecord) : MatchResult :=
  (x.setProgress .drill .atStation, .drill (plan.drill.getD (0, 0)).1 (plan.drill.getD (0, 0)).2)

/-- The punch's progress entry is DONE (R114). -/
def punchIsDone (x : SetRecord) : Bool :=
  match x.progress.punch with
  | some (.done _) => true
  | _ => false

/-- The binder: BIND when the punch is DONE, WITHHOLD otherwise (R114, R115). -/
def binderMatch (plan : HolePlan) (recipe : Recipe) (x : SetRecord) : MatchResult :=
  if punchIsDone x then (x.setProgress .binder .atStation, .bind plan.segments (recipe.style == .cut))
  else ((x.setProgress .binder .withheld).addCheck .bindFault, .withhold)

/-- The gate: the commanded outlet is computed and stored (R130). -/
def gateMatch (rules : List VerdictRule) (x : SetRecord) : MatchResult :=
  let o := commandedOutlet rules x.checks
  ({ x.setProgress .gate .atStation with commanded := some o }, .gate o)

/-- A WAITING match at a role, from the chosen set's record and its own plan slot (R109). -/
def State.workFor (s : State) (r : StationRole) (x : SetRecord) : MatchResult :=
  match r with
  | .punch => punchMatch (s.slotPlan x.slot) x
  | .notch => notchMatch (s.slotPlan x.slot) x
  | .drill => drillMatch (s.slotPlan x.slot) x
  | .binder => binderMatch (s.slotPlan x.slot) (s.slotRecipe x.slot) x
  | .gate => gateMatch s.verdict.rules x

/-! ### EDGE (R104 to R107) -/

/-- A port's consecutive-miss count is cleared (R100). -/
def State.clearMiss (s : State) (p : StationPort) : State :=
  { s with tracker := { s.tracker with missCounts := s.tracker.missCounts.set p 0 } }

/-- The edge is matched to the chosen set (R106). -/
def State.matchEdge (s : State) (p : StationPort) (r : StationRole) (x : SetRecord) : Reply :=
  if x.progress.get r = some .passing then
    ((s.clearMiss p).updateSet x.number fun y => y.setProgress r .passed, .report .pass x.number)
  else
    let w := s.workFor r x
    ((s.clearMiss p).updateSet x.number fun _ => w.1, .work x.number w.2)

/-- The edge finds no candidate (R107). -/
def State.unmatchedEdge (s : State) (p : StationPort) (r : StationRole) : Reply :=
  (s.updatePort (.station p) fun q => { q with unmatchedEdge := true },
   ⟨.unmatched, be1 (if r = .gate then gateOutletByte .reject else 0)⟩)

/-- EDGE(lag) with the capture position of its frame (R15, R104, R168). -/
def edgeRequest (p : StationPort) (lag : Nat) (capture : Position) (s : State) : Reply :=
  match (s.station p).role.stationRole with
  | none => (s, .bare .role)
  | some r =>
    match chosenSet s.tracker.queue (s.station p) r (capture - BitVec.ofNat 32 lag) with
    | none => s.unmatchedEdge p r
    | some x => s.matchEdge p r x

def execEdge (p : StationPort) (s : State) : Result := takeRequest (.station p) kindEdge parseByte (edgeRequest p) s

/-! ### Reports (R117 to R124) -/

/-- The tests of R118, in order, on a report of set `n` from port `p`; `valid` are the roles of its kind (R117). The last
hands the record and the role on. -/
def State.testReport (s : State) (p : StationPort) (valid : StationRole → Bool) (n : Nat)
    (act : SetRecord → StationRole → Reply) : Reply :=
  match s.findSet n with
  | none => (s, .report .noSet n)
  | some x =>
    match (s.station p).role.stationRole with
    | none => (s, .report .role n)
    | some r =>
      if !valid r then (s, .report .role n)
      else
        match x.progress.get r with
        | none | some .waiting | some .passing => (s, .report .notArrived n)
        | some .unconfirmed => (s, .report .late n)
        | some (.done _) | some (.fault _) | some .skipped | some .withheld | some .passed | some .missed =>
          (s, .report .duplicate n)
        | some .atStation => act x r

/-- The answer to a LIFT that carries lifts done (R119). -/
def liftAnswer (c : AnswerCode) (set done : Nat) : Answer := ⟨c, be2 set ++ be1 done⟩

/-- One lift more; the last lift of the plan makes the punch entry DONE (R119). -/
def SetRecord.countLift (x : SetRecord) : SetRecord :=
  let y := { x with liftsDone := x.liftsDone + 1 }
  if y.liftsDone = y.liftCount then y.setProgress .punch (.done none) else y

/-- LIFT(set, index) (R119). -/
def liftRequest (p : StationPort) (c : Nat × Nat) (_ : Position) (s : State) : Reply :=
  s.testReport p (fun r => r == .punch) c.1 fun x _ =>
    if c.2 = x.liftsDone then (s.updateSet c.1 SetRecord.countLift, liftAnswer .ok c.1 (x.liftsDone + 1))
    else (s, liftAnswer .order c.1 x.liftsDone)

def execLift (p : StationPort) (s : State) : Result := takeRequest (.station p) kindLift parseSetByte (liftRequest p) s

/-- The roles for which DONE is valid (R117). -/
def doneValid : StationRole → Bool
  | .notch | .drill | .binder => true
  | .punch | .gate => false

/-- DONE(set) (R120). -/
def doneRequest (p : StationPort) (n : Nat) (_ : Position) (s : State) : Reply :=
  s.testReport p doneValid n fun _ r =>
    (s.updateSet n fun y => y.setProgress r (.done none), .report .ok n)

def execDone (p : StationPort) (s : State) : Result := takeRequest (.station p) kindDone parseSet (doneRequest p) s

/-- The roles for which FAULT is valid (R117). -/
def faultValid : StationRole → Bool
  | .punch | .notch | .drill | .binder => true
  | .gate => false

/-- The check that a FAULT adds (R121); the gate sends none. -/
def faultCheck : StationRole → Check
  | .punch => .punchFault
  | .notch | .drill => .finishFault
  | .binder | .gate => .bindFault

/-- FAULT(set, code) (R117, R121). -/
def faultRequest (p : StationPort) (c : Nat × Nat) (_ : Position) (s : State) : Reply :=
  if c.2 = 0 then (s, .range 2 0)
  else
    s.testReport p faultValid c.1 fun _ r =>
      (s.updateSet c.1 fun y => (y.setProgress r (.fault c.2)).addCheck (faultCheck r), .report .ok c.1)

def execFault (p : StationPort) (s : State) : Result :=
  takeRequest (.station p) kindFault parseSetByte (faultRequest p) s

/-- The gate's entry becomes DONE with the outlet it took (R131). -/
def SetRecord.divert (x : SetRecord) (o : GateOutlet) : SetRecord :=
  { x.setProgress .gate (.done (some o)) with taken := some o }

/-- A DIVERTED that reaches test 6: the outlet is recorded, and one that differs from the commanded outlet hands
GATE_MISMATCH to line control (R131). -/
def State.divertSet (s : State) (n : Nat) (x : SetRecord) (o : GateOutlet) : State :=
  let s' := s.updateSet n fun y => y.divert o
  if x.commanded = some o then s' else s'.handCause .gateMismatch

/-- DIVERTED(set, outlet) (R117, R131). -/
def divertedRequest (p : StationPort) (c : Nat × Nat) (_ : Position) (s : State) : Reply :=
  match outletOfByte c.2 with
  | none => (s, .range 2 0)
  | some o => s.testReport p (fun r => r == .gate) c.1 fun x _ => (s.divertSet c.1 x o, .report .ok c.1)

def execDiverted (p : StationPort) (s : State) : Result :=
  takeRequest (.station p) kindDiverted parseSetByte (divertedRequest p) s

end Sys2Proof.Machine
end

