-- ==== Sys2Proof/Machine/Store.lean ====
section
/-! DEFINITION. The recipe store: STORE, ERASE, the end of a program cycle, READ RECIPE (chapter 10). -/

namespace Sys2Proof.Machine

/-- A program cycle begins: the slot's former contents are given up, and the slot is marked as being written, which is
CORRUPT until the cycle has ended (R156, R157; log entry 6). -/
def RecipeStore.begin (r : RecipeStore) (kind : CycleKind) (i : Fin 16) : RecipeStore :=
  { r.setSlot i .corrupt with cycle := some ⟨kind, i⟩ }

/-- STORE(slot, recipe) (R156). -/
def storeRequest (c : Nat × Recipe) (s : State) : Reply :=
  match storeSlotOfNumber c.1 with
  | none => (s, .range 0 0)
  | some i =>
    match rangeFailure c.2 with
    | some f => (s, .range f.field f.group)
    | none =>
      if s.store.cycle.isSome then (s, .bare .busy)
      else ({ s with store := s.store.begin (.store c.2) i }, ⟨.ok, be1 c.1⟩)

def execStore (s : State) : Result := takeSupervisor kindStore parseStore storeRequest s

/-- ERASE(slot) (R157). -/
def eraseRequest (n : Nat) (s : State) : Reply :=
  match storeSlotOfNumber n with
  | none => (s, .range 0 0)
  | some i =>
    if s.store.cycle.isSome then (s, .bare .busy)
    else ({ s with store := s.store.begin .erase i }, ⟨.ok, be1 n⟩)

def execErase (s : State) : Result := takeSupervisor kindErase parseByte eraseRequest s

/-- The record read back from the slot, compared field by field with the copy as carried (R158). -/
def readBackAgrees (b : ReadBack) (copy : Recipe) : Bool :=
  match b with
  | .asCarried => true
  | .record r => r == copy

/-- The state in which a cycle leaves its slot, and its outcome (R158). -/
def cycleEnd (b : ReadBack) : CycleKind → StoreSlot × CycleOutcome
  | .store copy => if readBackAgrees b copy then (.valid copy, .valid) else (.corrupt, .corrupt)
  | .erase => (.empty, .empty)

/-- The name of a cycle's kind. -/
def CycleKind.name : CycleKind → CycleName
  | .store _ => .store
  | .erase => .erase

/-- A cycle ends (R158). -/
def RecipeStore.finish (r : RecipeStore) (c : ProgramCycle) (b : ReadBack) : RecipeStore :=
  { r.setSlot c.slot (cycleEnd b c.kind).1 with
    cycle := none
    lastResult := some ⟨c.kind.name, c.slot, (cycleEnd b c.kind).2⟩ }

/-- PROGRAM_CYCLE_END: the slot is verified, the result recorded, the store READY and STORE_END set (R158, R153). With
no cycle in flight nothing ends (log entry 2). -/
def execProgramCycleEnd (b : ReadBack) (s : State) : Result :=
  match s.store.cycle with
  | none => .next s
  | some c =>
    .next ({ s with store := s.store.finish c b, line := { s.line with storeEnd := true } } : State).driveAttn

/-- READ RECIPE(slot) (R160). -/
def readRecipeRequest (n : Nat) (s : State) : Reply :=
  match storeSlotOfNumber n with
  | none => (s, .range 0 0)
  | some i =>
    if s.store.cycle.isSome then (s, .bare .busy)
    else
      match s.store.slots[i] with
      | .empty => (s, .bare .empty)
      | .corrupt => (s, .bare .corrupt)
      | .valid r => (s, ⟨.ok, recipeBytes r⟩)

def execReadRecipe (s : State) : Result := takeSupervisor kindReadRecipe parseByte readRecipeRequest s

end Sys2Proof.Machine
end

