-- ==== Sys2Proof/Machine/Dispatch.lean ====
section
/-! DEFINITION. One arm for each command. -/

namespace Sys2Proof.Machine

def exec (i : Instr) (s : State) : Host.Outcome State Fault Refusal :=
  match i with
  | .quadratureEdge pair => Sys2Proof.Machine.execQuadratureEdge pair s
  | .reset pair => Sys2Proof.Machine.execReset pair s
  | .supplyLoss => Sys2Proof.Machine.execSupplyLoss s
  | .frameReceived port char => Sys2Proof.Machine.execFrameReceived port char s
  | .frameGapTimeout port => Sys2Proof.Machine.execFrameGapTimeout port s
  | .answerSent port => Sys2Proof.Machine.execAnswerSent port s
  | .unknownKind port => Sys2Proof.Machine.execUnknownKind port s
  | .setLine => Sys2Proof.Machine.execSetLine s
  | .setStation => Sys2Proof.Machine.execSetStation s
  | .setDie => Sys2Proof.Machine.execSetDie s
  | .setRules => Sys2Proof.Machine.execSetRules s
  | .store => Sys2Proof.Machine.execStore s
  | .erase => Sys2Proof.Machine.execErase s
  | .programCycleEnd readBack => Sys2Proof.Machine.execProgramCycleEnd readBack s
  | .readRecipe => Sys2Proof.Machine.execReadRecipe s
  | .stage => Sys2Proof.Machine.execStage s
  | .stageInline => Sys2Proof.Machine.execStageInline s
  | .discard => Sys2Proof.Machine.execDiscard s
  | .changeover => Sys2Proof.Machine.execChangeover s
  | .endJob => Sys2Proof.Machine.execEndJob s
  | .stop => Sys2Proof.Machine.execStop s
  | .resume => Sys2Proof.Machine.execResume s
  | .purge => Sys2Proof.Machine.execPurge s
  | .markSample => Sys2Proof.Machine.execMarkSample s
  | .readStatus => Sys2Proof.Machine.execReadStatus s
  | .readSet => Sys2Proof.Machine.execReadSet s
  | .readPlan => Sys2Proof.Machine.execReadPlan s
  | .readHistory => Sys2Proof.Machine.execReadHistory s
  | .rewind => Sys2Proof.Machine.execRewind s
  | .readPortStatus => Sys2Proof.Machine.execReadPortStatus s
  | .openSet port => Sys2Proof.Machine.execOpen port s
  | .sheet port => Sys2Proof.Machine.execSheet port s
  | .closeSet port => Sys2Proof.Machine.execClose port s
  | .abandon port => Sys2Proof.Machine.execAbandon port s
  | .edge port => Sys2Proof.Machine.execEdge port s
  | .lift port => Sys2Proof.Machine.execLift port s
  | .done port => Sys2Proof.Machine.execDone port s
  | .fault port => Sys2Proof.Machine.execFault port s
  | .diverted port => Sys2Proof.Machine.execDiverted port s
  | .characterReceived port char => Sys2Proof.Machine.execCharacterReceived port char s

end Sys2Proof.Machine
end

