-- ==== Sys2Proof/Safety.lean ====
section
/-! DEFINITION. The terms claims are stated in: a request that is next to be taken, the reply to it, and the laws that the
manual says hold at every moment. -/

namespace Sys2Proof.Machine

/-! ### Taking and replying -/

/-- Frame `f` is the oldest in the buffer of port `p`, `rest` waits behind it, and the answer queue has room, so that `f`
is the next frame the port takes (R166). -/
def State.Taking (s : State) (p : Port) (f : Frame) (rest : List Frame) : Prop :=
  (s.port p).buffer = f :: rest ∧ (s.port p).answers.length < Config.answerDepth

/-- The state after the frame `f` of port `p` was taken with effect `s` on the blocks and answered `a`: `rest` waits, the
answer stands at the tail of the answer queue, ATTN is driven; nothing else differs from `s` (R166, R169). -/
def State.reply (s : State) (p : Port) (f : Frame) (rest : List Frame) (a : Answer) : State :=
  (s.updatePort p fun q => { q with buffer := rest, answers := q.answers ++ [a.wire f.kind] }).driveAttn

/-- The port and the kind value of the request that a command takes; none for a command that takes no request (R167,
section 12.3). -/
def requestOf : Instr → Option (Port × Byte)
  | .setLine => some (.supervisor, 0x20)
  | .setStation => some (.supervisor, 0x21)
  | .setDie => some (.supervisor, 0x22)
  | .setRules => some (.supervisor, 0x23)
  | .store => some (.supervisor, 0x24)
  | .erase => some (.supervisor, 0x25)
  | .readRecipe => some (.supervisor, 0x26)
  | .stage => some (.supervisor, 0x27)
  | .stageInline => some (.supervisor, 0x28)
  | .discard => some (.supervisor, 0x29)
  | .changeover => some (.supervisor, 0x2A)
  | .endJob => some (.supervisor, 0x2B)
  | .stop => some (.supervisor, 0x2C)
  | .resume => some (.supervisor, 0x2D)
  | .purge => some (.supervisor, 0x2E)
  | .markSample => some (.supervisor, 0x2F)
  | .readStatus => some (.supervisor, 0x30)
  | .readSet => some (.supervisor, 0x31)
  | .readPlan => some (.supervisor, 0x32)
  | .readHistory => some (.supervisor, 0x33)
  | .rewind => some (.supervisor, 0x34)
  | .readPortStatus => some (.supervisor, 0x35)
  | .openSet p => some (.station p, 0x01)
  | .sheet p => some (.station p, 0x02)
  | .closeSet p => some (.station p, 0x03)
  | .abandon p => some (.station p, 0x04)
  | .edge p => some (.station p, 0x05)
  | .lift p => some (.station p, 0x06)
  | .done p => some (.station p, 0x07)
  | .fault p => some (.station p, 0x08)
  | .diverted p => some (.station p, 0x09)
  | .quadratureEdge _ | .reset _ | .supplyLoss | .frameReceived _ _ | .frameGapTimeout _ | .answerSent _
  | .unknownKind _ | .programCycleEnd _ | .characterReceived _ _ => none

/-- The length of kind and payload is the one fixed for the kind; a list's count is taken as the frame carries it, and a
frame too short to hold it does not fit (R167, section 12.3). -/
def lengthFits (kind : Byte) (payload : List Byte) : Bool :=
  let length := payload.length + 1
  if kind = 0x02 then length == 6
  else if kind = 0x03 || kind = 0x04 || kind = 0x07 || kind = 0x2F || kind = 0x31 then length == 3
  else if kind = 0x05 || kind = 0x25 || kind = 0x26 || kind = 0x27 || kind = 0x32 || kind = 0x35 then length == 2
  else if kind = 0x06 || kind = 0x08 || kind = 0x09 then length == 4
  else if kind = 0x20 then length == 7
  else if kind = 0x21 then length == 9
  else if kind = 0x22 then length == 8
  else if kind = 0x23 then
    match payload[0]? with
    | none => false
    | some count => length == 2 + 4 * count.toNat
  else if kind = 0x24 then
    match payload[34]? with
    | none => false
    | some count => length == 36 + 6 * count.toNat
  else if kind = 0x28 then
    match payload[33]? with
    | none => false
    | some count => length == 35 + 6 * count.toNat
  else length == 1

/-- The bytes of one rule in a SET RULES payload: test (1), mask (2), outlet (1) (section 12.3). -/
def ruleBytes (r : VerdictRule) : List Byte :=
  be1 (match r.test with | .any => 1 | .all => 2) ++ be2 (checkMask r.mask) ++ be1 (gateOutletByte r.outlet)

/-- Slot `i` is the target slot of a staging: the STAGED slot if there is one, otherwise A if A is FREE and B if A is not
(R79). -/
def PlanUnit.IsTarget (u : PlanUnit) (i : SlotId) : Prop :=
  match i with
  | .a => u.slotA.isStaged ∨ (u.slotA.isFree ∧ ¬u.slotB.isStaged)
  | .b => ¬u.slotA.isStaged ∧ (u.slotB.isStaged ∨ (u.slotB.isFree ∧ ¬u.slotA.isFree))

/-! ### Words of the rules -/

/-- Pair `q` follows `p` in the forward sequence low-low, high-low, high-high, low-high, low-low (R1). -/
def FollowsForward (p q : PhasePair) : Prop :=
  (p, q) ∈ ([(⟨false, false⟩, ⟨true, false⟩), (⟨true, false⟩, ⟨true, true⟩), (⟨true, true⟩, ⟨false, true⟩),
    (⟨false, true⟩, ⟨false, false⟩)] : List (PhasePair × PhasePair))

/-- The change from `old` to `new` is a quadrature edge of a direction (R1). -/
def IsEdge (old new : PhasePair) : Direction → Prop
  | .forward => FollowsForward old new
  | .reverse => FollowsForward new old

/-- A rule matches a word: ANY with at least one name of its mask in the word, ALL with every name of it (R129). -/
def RuleMatches (r : VerdictRule) (w : CheckWord) : Prop :=
  match r.test with
  | .any => ∃ c, r.mask.has c = true ∧ w.has c = true
  | .all => ∀ c, r.mask.has c = true → w.has c = true

/-- A record is a candidate of an edge at position `p`, at distance `d` from its expected edge (R105). -/
def IsCandidate (e : Station) (r : StationRole) (p : Position) (x : SetRecord) (d : Nat) : Prop :=
  ∃ entry, x.state = .travelling entry ∧
    (x.progress.get r = some .waiting ∨ x.progress.get r = some .passing) ∧
    d = ((p - entry).toInt - (e.arrive : Int)).natAbs ∧ d ≤ e.tol

/-- The report kinds valid for a role: LIFT (06h), DONE (07h), FAULT (08h), DIVERTED (09h) (R117). -/
def ReportValid (kind : Byte) (r : StationRole) : Prop :=
  (kind = 0x06 ∧ r = .punch) ∨ (kind = 0x07 ∧ (r = .notch ∨ r = .drill ∨ r = .binder)) ∨
    (kind = 0x08 ∧ r ≠ .gate) ∨ (kind = 0x09 ∧ r = .gate)

/-! ### Words of the recipe check (R56) -/

/-- `field` with `group` names a field of the recipe: 1 to 13 with group 0, 14 to 17 of each group by its place. -/
def HasField (r : Recipe) (field group : Nat) : Prop :=
  (group = 0 ∧ 1 ≤ field ∧ field ≤ 13) ∨ (1 ≤ group ∧ group ≤ r.groups.length ∧ 14 ≤ field ∧ field ≤ 17)

/-- A field is examined before another: those of group 0 first, then group by group, by identifier within one (R56). -/
def ExaminedBefore (field' group' field group : Nat) : Prop := group' < group ∨ (group' = group ∧ field' < field)

/-- The group at a place, counted from 1, satisfies `P`. -/
def GroupFits (r : Recipe) (place : Nat) (P : SheetGroup → Prop) : Prop :=
  ∀ g, r.groups[place - 1]? = some g → P g

/-- A field lies in its range (section 4.3); 6 and 7 count for style CUT only, 8 and 9 for style DRILL only (R56). -/
def FieldFits (r : Recipe) (field group : Nat) : Prop :=
  match field with
  | 1 => r.name.length = 12 ∧ ∀ c ∈ r.name, 0x20 ≤ c.toNat ∧ c.toNat ≤ 0x7E
  | 2 => 5000 ≤ r.edge ∧ r.edge ≤ 60000
  | 3 => 400 ≤ r.pitch ∧ r.pitch ≤ 2000
  | 4 => 200 ≤ r.margin ∧ r.margin ≤ 5000
  | 5 => r.styleCode ≤ 2
  | 6 => r.styleCode = 1 → r.gapWidth ≤ 8000
  | 7 => r.styleCode = 1 → r.gapClearance ≤ 1000
  | 8 => r.styleCode = 2 → r.drillX ≤ r.edge
  | 9 => r.styleCode = 2 → 300 ≤ r.drillY ∧ r.drillY ≤ 3000
  | 10 => 300 ≤ r.liftCapacity ∧ r.liftCapacity ≤ 6000
  | 11 => 1 ≤ r.liftSheets ∧ r.liftSheets ≤ 32
  | 12 => r.target ≤ 999999
  | 13 => 1 ≤ r.groupCount ∧ r.groupCount ≤ 8
  | 14 => GroupFits r group fun g => g.number = group ∧ g.number ≤ 8
  | 15 => GroupFits r group fun g => 1 ≤ g.count ∧ g.count ≤ 32
  | 16 => GroupFits r group fun g => 40 ≤ g.nominal ∧ g.nominal ≤ 4000
  | 17 => GroupFits r group fun g => g.tolerance ≤ 500
  | _ => False

/-! ### Words of the plan computation (R57 to R70) -/

/-- A die record that R53 allows. -/
def Die.Fits (d : Die) : Prop :=
  (8 ≤ d.pins ∧ d.pins ≤ 64) ∧ (400 ≤ d.pitch ∧ d.pitch ≤ 2000) ∧ d.offset ≤ 20000 ∧ d.travel ≤ 20000

/-- n0 = floor(U / P) + 1, for a U that is not negative (R60, R61). -/
def rowNatural (r : Recipe) : Nat := (r.edge - 2 * r.margin) / r.pitch + 1

/-- n = min(n0, D) (R62). -/
def rowHoles (r : Recipe) (d : Die) : Nat := min (rowNatural r) d.pins

/-- m = floor((L - (n - 1) * P) / 2) (R63). -/
def rowMargin (r : Recipe) (d : Die) : Nat := (r.edge - (rowHoles r d - 1) * r.pitch) / 2

/-- x_i = m + i * P (R63). -/
def rowHole (r : Recipe) (d : Die) (i : Nat) : Nat := rowMargin r d + i * r.pitch

/-- S for a first pin k0 (R64). -/
def rowGuide (r : Recipe) (d : Die) (k : Nat) : Int := (d.offset : Int) + k * r.pitch - rowMargin r d

/-- First pin `k` is allowed (R65). -/
def AllowedPin (r : Recipe) (d : Die) (k : Nat) : Prop :=
  k + rowHoles r d ≤ d.pins ∧ 0 ≤ rowGuide r d k ∧ rowGuide r d k ≤ d.travel

/-- Hole `i` of the row is removed: |2 * x_i - L| < G + 2 * C (R68). -/
def RemovedHole (r : Recipe) (d : Die) (i : Nat) : Prop :=
  i < rowHoles r d ∧ (2 * (rowHole r d i : Int) - r.edge).natAbs < r.gapWidth + 2 * r.gapClearance

/-- The condition of each plan error of R57 (R58 to R61, R65, R67, R69, R70). It is read as a condition of its stage
where no earlier stage has found an error. -/
def PlanFails (r : Recipe) (die : Option Die) (table : PerStation Station) : PlanError → Prop
  | .sheetList => (r.groups.map (·.count)).sum < 2 ∨ 32 < (r.groups.map (·.count)).sum
  | .liftCapacity => ∃ g ∈ r.groups, r.liftCapacity < g.nominal
  | .dieAbsent => die = none
  | .pitchMismatch => ∃ d, die = some d ∧ r.pitch ≠ d.pitch
  | .margin => r.edge ≤ 2 * r.margin
  | .tooFewHoles => rowNatural r < 2
  | .guideRange => ∃ d, die = some d ∧ ∀ k, ¬AllowedPin r d k
  | .stationAbsent => (r.styleCode = 1 ∧ ∀ p, (table.get p).role ≠ .station .notch) ∨
      (r.styleCode = 2 ∧ ∀ p, (table.get p).role ≠ .station .drill)
  | .gapNarrow => r.styleCode = 1 ∧ ∃ d, die = some d ∧ ∀ i, ¬RemovedHole r d i
  | .segmentShort => r.styleCode = 1 ∧ ∃ d i, die = some d ∧ RemovedHole r d i ∧ (i < 2 ∨ rowHoles r d ≤ i + 2)

/-! ### Words of the lift planner (R47 to R50) -/

/-- The lifts cover the sheets from index 0 on, as far as they reach, in the planner's way: an overload lift is a single
sheet above H; any other lift keeps within H and K, and it closes only because the next sheet would exceed H or the lift
holds K sheets (R47, R48). -/
def PlannedLifts (r : Recipe) (sheets : List SheetEntry) (ls : List Lift) : Prop :=
  ∀ k l, ls[k]? = some l →
    l.first = ((ls.take k).map (·.count)).sum ∧
    l.first + l.count ≤ sheets.length ∧
    l.sum = (((sheets.drop l.first).take l.count).map (·.planning)).sum ∧
    (l.overload = true → l.count = 1 ∧ r.liftCapacity < l.sum) ∧
    (l.overload = false → 1 ≤ l.count ∧ l.count ≤ r.liftSheets ∧ l.sum ≤ r.liftCapacity ∧
      ∀ e, sheets[l.first + l.count]? = some e → r.liftCapacity < l.sum + e.planning ∨ l.count = r.liftSheets)

/-! ### Words of the validation (R96) -/

/-- `p` is the first port, in increasing number, of which a condition holds. -/
def IsFirstPort (bad : StationPort → Prop) (p : StationPort) : Prop :=
  bad p ∧ ∀ q, stationNumber q < stationNumber p → ¬bad q

/-- Port `p` holds one of the five station roles. -/
def IsStaffed (table : PerStation Station) (p : StationPort) : Prop := ∃ r, (table.get p).role = .station r

/-- How many ports hold a role. -/
def portCount (table : PerStation Station) (role : Role) : Nat :=
  (stationPorts.filter fun p => (table.get p).role = role).length

/-- Order 7: A - Tol is not above 0. -/
def OpensEarly (table : PerStation Station) (p : StationPort) : Prop :=
  IsStaffed table p ∧ (table.get p).arrive ≤ (table.get p).tol

/-- Order 8: A + Tol is above Z. -/
def ClosesEarly (table : PerStation Station) (p : StationPort) : Prop :=
  IsStaffed table p ∧ (table.get p).close < (table.get p).arrive + (table.get p).tol

/-- Order 9: the station of role `r` on port `p` has A not less than the binder's. -/
def FollowsBinder (table : PerStation Station) (r : StationRole) (p : StationPort) : Prop :=
  (table.get p).role = .station r ∧
    ∃ b, (table.get b).role = .station .binder ∧ (table.get b).arrive ≤ (table.get p).arrive

/-- Order 10: a station before the gate has Z above A_gate - Tol_gate. -/
def ReachesGate (table : PerStation Station) (p : StationPort) : Prop :=
  ∃ r g, r ≠ .gate ∧ (table.get p).role = .station r ∧ (table.get g).role = .station .gate ∧
    (table.get g).arrive < (table.get p).close + (table.get g).tol

/-- Order 11: the spacing is not above twice the Tol of some station. -/
def SpacingShort (table : PerStation Station) (c : LineConfig) : Prop :=
  ∃ p, IsStaffed table p ∧ c.spacing ≤ 2 * (table.get p).tol

/-- The condition of each configuration result, with the port it gives (R96). It is read as its place in the order where
no condition before it fails. -/
def ConfigFails (table : PerStation Station) (c : LineConfig) : ConfigResult → Option StationPort → Prop
  | .ok, _ => False
  | .collatorCount, p => p = none ∧ portCount table .collator ≠ 1
  | .punchCount, p => p = none ∧ portCount table (.station .punch) ≠ 1
  | .binderCount, p => p = none ∧ portCount table (.station .binder) ≠ 1
  | .gateCount, p => p = none ∧ portCount table (.station .gate) ≠ 1
  | .notchCount, p => p = none ∧ 1 < portCount table (.station .notch)
  | .drillCount, p => p = none ∧ 1 < portCount table (.station .drill)
  | .windowOpen, p => ∃ q, p = some q ∧ IsFirstPort (OpensEarly table) q
  | .windowClose, p => ∃ q, p = some q ∧ IsFirstPort (ClosesEarly table) q
  | .finishOrder, p => ∃ q, p = some q ∧ (FollowsBinder table .punch q ∨
      (FollowsBinder table .notch q ∧ ∀ a, ¬FollowsBinder table .punch a) ∨
      (FollowsBinder table .drill q ∧ ∀ a, ¬FollowsBinder table .punch a ∧ ¬FollowsBinder table .notch a))
  | .gateClearance, p => ∃ q, p = some q ∧ IsFirstPort (ReachesGate table) q
  | .spacing, p => p = none ∧ SpacingShort table c

/-! ### Laws of the ports (R165, R166) -/

/-- No input buffer and no answer queue holds more than 4. -/
def State.PortLaw (s : State) : Prop :=
  ∀ p, (s.port p).buffer.length ≤ Config.bufferDepth ∧ (s.port p).answers.length ≤ Config.answerDepth

/-! ### Laws of the tracking queue (R16, R18) -/

/-- At most 16 records, no two of one number, and only the last may be GATHERING. -/
def State.QueueLaw (s : State) : Prop :=
  s.tracker.queue.length ≤ Config.queueDepth ∧ (s.tracker.queue.map (·.number)).Nodup ∧
    ∀ x ∈ s.tracker.queue.dropLast, x.isGathering = false

/-! ### Laws of the plan slots (R78, R86 to R88, R145) -/

/-- How many records of the queue belong to a slot. -/
def State.recordsOf (s : State) (i : SlotId) : Nat := (s.tracker.queue.filter fun x => x.slot = i).length

/-- A slot that sets can belong to: CURRENT or DRAINING. -/
def PlanSlot.isRunning (x : PlanSlot) : Bool := x.isCurrent || x.isDraining

/-- In UNCONFIGURED and IDLE the queue is empty and no slot is CURRENT or DRAINING; in the other states a slot is CURRENT
(R145, R21). -/
def State.IdleLaw (s : State) : Prop :=
  if s.line.state.isSetup then
    s.tracker.queue = [] ∧ s.plan.slotA.isRunning = false ∧ s.plan.slotB.isRunning = false
  else s.plan.currentSlot.isSome

/-- A slot's count is the number of its records, and a DRAINING slot has at least one (R86, R88). -/
def State.CountLaw (s : State) (i : SlotId) : Prop :=
  match s.plan.slot i with
  | .free => s.recordsOf i = 0
  | .staged j => s.recordsOf i = 0 ∧ j.inQueue = 0
  | .current _ j => j.inQueue = s.recordsOf i
  | .draining _ j => j.inQueue = s.recordsOf i ∧ 0 < j.inQueue

/-- The two slots are never both STAGED, both CURRENT or both DRAINING (section 5.2). -/
def PlanUnit.Distinct (u : PlanUnit) : Prop :=
  ¬(u.slotA.isStaged ∧ u.slotB.isStaged) ∧ ¬(u.slotA.isCurrent ∧ u.slotB.isCurrent) ∧
    ¬(u.slotA.isDraining ∧ u.slotB.isDraining)

/-- The law of slots, queue and line state together. -/
def State.SlotLaw (s : State) : Prop :=
  s.QueueLaw ∧ s.IdleLaw ∧ s.CountLaw .a ∧ s.CountLaw .b ∧ s.plan.Distinct

/-- opened = accepted + rejected + reworked + unresolved + withdrawn + sets in queue, modulo 2^32 (R86). -/
def Job.countersBalance (j : Job) : Bool :=
  j.counters.opened == j.counters.accepted + j.counters.rejected + j.counters.reworked + j.counters.unresolved +
    j.counters.withdrawn + BitVec.ofNat 32 j.inQueue

/-- A target is at most 999999, and with a target accepted plus sets in queue never exceed it (R78, R87). -/
def Job.withinQuota (j : Job) : Bool :=
  decide (j.target ≤ 999999) && (j.target == 0 || decide (j.counters.accepted.toNat + j.inQueue ≤ j.target))

/-- Every slot that is not FREE keeps the counter law (R86). -/
def State.CounterLaw (s : State) : Prop := ∀ i, ((s.plan.slot i).job?.map Job.countersBalance).getD true = true

/-- Every slot that is not FREE keeps the quota law (R87). -/
def State.QuotaLaw (s : State) : Prop := ∀ i, ((s.plan.slot i).job?.map Job.withinQuota).getD true = true

/-! ### Laws of the verdict unit (R136, R138) -/

/-- At most 32 entries, with consecutive exit numbers that end just before X (R138). -/
def State.HistoryLaw (s : State) : Prop :=
  s.verdict.history.length ≤ Config.historyDepth ∧
    ∀ k e, s.verdict.history[k]? = some e →
      e.exitNumber = s.verdict.nextExit - BitVec.ofNat 32 (s.verdict.history.length - k)

/-- The reject-run count is at most 255 and, with a limit, below it (R135, R136). -/
def State.RunLaw (s : State) : Prop :=
  s.verdict.rejectRun ≤ Config.rejectRunMax ∧
    (0 < s.tracker.lineConfig.rejectLimit → s.verdict.rejectRun < s.tracker.lineConfig.rejectLimit)

/-! ### Laws of the configuration and the counters of the stations (R2, R97, R100) -/

/-- Outside UNCONFIGURED the configuration is valid (R97). -/
def State.ConfigLaw (s : State) : Prop :=
  s.line.state ≠ .unconfigured → (validate s.tracker.stations s.tracker.lineConfig).result = .ok

/-- Every consecutive-miss count is 0 to 2, and the divider tally is below a setting of 1, 2 or 4 (R2, R100). -/
def State.TallyLaw (s : State) : Prop :=
  (∀ p, s.tracker.missCounts.get p < Config.missRun) ∧ s.position.tally < s.tracker.lineConfig.divider ∧
    (s.tracker.lineConfig.divider = 1 ∨ s.tracker.lineConfig.divider = 2 ∨ s.tracker.lineConfig.divider = 4)

/-- A die record that is present lies within its ranges (R53). -/
def State.DieLaw (s : State) : Prop := ∀ d, s.plan.die = some d → d.Fits

/-! ### Laws of the outputs (R144, R151, R152) -/

/-- LSTOP is asserted exactly in HALT, ATTN follows its conditions, and outside HALT the cause set is empty. -/
def State.OutputLaw (s : State) : Prop :=
  s.line.lstop = s.line.state.isHalt ∧ s.line.attn = s.attnCondition ∧
    (s.line.state.isHalt = false → s.line.causes = {})

/-- A safe state: every law holds. -/
def State.Lawful (s : State) : Prop :=
  s.PortLaw ∧ s.SlotLaw ∧ s.CounterLaw ∧ s.QuotaLaw ∧ s.HistoryLaw ∧ s.RunLaw ∧ s.ConfigLaw ∧ s.TallyLaw ∧
    s.DieLaw ∧ s.OutputLaw

end Sys2Proof.Machine
end

