-- ==== Sys2Proof/WellFormed.lean ====
section
/-! DEFINITION. Which commands are well formed: a record read back from the store's memory fits the recipe layout of
section 12.3. No other operand can be out of its range. -/

namespace Sys2Proof

/-- A group entry fits its 6 bytes: number (1), count (1), nominal (2), tolerance (2) (R172). -/
def SheetGroup.fitsLayout (g : SheetGroup) : Bool :=
  g.number < 256 && g.count < 256 && g.nominal < 65536 && g.tolerance < 65536

/-- The twelve fixed fields that are numbers fit the widths of the layout (R172). -/
def Recipe.fieldsFit (r : Recipe) : Bool :=
  r.edge < 65536 && r.pitch < 65536 && r.margin < 65536 && r.styleCode < 256 && r.gapWidth < 65536 &&
    r.gapClearance < 65536 && r.drillX < 65536 && r.drillY < 65536 && r.liftCapacity < 65536 &&
    r.liftSheets < 256 && r.target < 16777216 && r.groupCount < 256

/-- The record is one a frame can carry: a 12-byte name, fields within their widths, and as many groups as field 13
states (R56, R172). -/
def Recipe.fitsLayout (r : Recipe) : Bool :=
  r.name.length == 12 && r.fieldsFit && r.groups.length == r.groupCount && r.groups.all SheetGroup.fitsLayout

/-- A command is well formed. -/
def Instr.wellFormed : Instr → Bool
  | .programCycleEnd (.record r) => r.fitsLayout
  | .programCycleEnd .asCarried => true
  | .quadratureEdge _ | .reset _ | .supplyLoss | .frameReceived _ _ | .frameGapTimeout _ | .answerSent _
  | .unknownKind _ | .setLine | .setStation | .setDie | .setRules | .store | .erase | .readRecipe | .stage
  | .stageInline | .discard | .changeover | .endJob | .stop | .resume | .purge | .markSample | .readStatus
  | .readSet | .readPlan | .readHistory | .rewind | .readPortStatus | .openSet _ | .sheet _ | .closeSet _
  | .abandon _ | .edge _ | .lift _ | .done _ | .fault _ | .diverted _ | .characterReceived _ _ => true

end Sys2Proof
end

