-- ==== Sys2Proof/Certificates/Slice0/Obligations.lean ====
section
/-! DEFINITION. The statements for the provers. A statement about a request has a frame `f` of that kind next to be taken
(`State.Taking`), and its conclusion is the whole next state: the effect on the blocks, written as an update of `s`, then
`State.reply`, which changes nothing but the port's buffer and answer queue and ATTN. What the update does not name is
unchanged. -/

open Sys2Proof Sys2Proof.Machine

/-! ### The machine -/

/-- A step runs the command at the front of the queue on the state with the queue's rest; an empty queue idles, which is
the model's choice (log entry 10). -/
def Obligations.StepRunsFrontCommand : Prop :=
  (∀ (c : Instr) (rest : List Instr) (s : State), s.pending = c :: rest → step s = exec c { s with pending := rest }) ∧
  (∀ s : State, s.pending = [] → step s = .next s)

/-- Every command answers a next state and leaves the commands that wait as they are: no event of the manual stops the
part (log entry 23). That the commands that wait stay as they are, over RESET and SUPPLY_LOSS too, is the model's choice
(log entry 21). -/
def Obligations.EveryCommandAnswersNext : Prop :=
  ∀ (c : Instr) (s : State), ∃ t, exec c s = .next t ∧ t.pending = s.pending

/-- RESET: every block at its reset value (R9, R16, R17, R23, R53, R78, R93, R100, R143, R144, R171), the store as R155 and
R161 leave it. State.reset is what a reset that finds both phases low (log entry 7) leaves of a store never written
(log entry 8); that the commands that wait are kept is the model's too (log entry 21). -/
def Obligations.ResetLeavesResetValues : Prop :=
  (∀ (pair : PhasePair) (s : State), ∃ t, exec (.reset pair) s = .next t ∧
    t.position = ⟨0, 0, 0, none, true, false, pair⟩ ∧
    t.tracker.queue = [] ∧ t.tracker.nextNumber = 1 ∧ t.tracker.lastOpened = none ∧
    (∀ p, t.station p = ⟨.none, 0, 0, 0⟩) ∧ t.tracker.lineConfig = ⟨1, 200, 2000, 0⟩ ∧
    (∀ p, t.tracker.missCounts.get p = 0) ∧
    t.plan = ⟨none, .free, .free, 1⟩ ∧ t.verdict = ⟨[], 0, [], 1, 1⟩ ∧
    t.line = ⟨.unconfigured, {}, false, false, false, false⟩ ∧
    (∀ p, t.port p = ⟨.hunt, [], [], false, false, false⟩) ∧
    t.store.cycle = none ∧ t.store.lastResult = none ∧
    (∀ i : Fin 16, t.store.slots[i] = if s.store.cycle.map (·.slot) = some i then .corrupt else s.store.slots[i]) ∧
    t.pending = s.pending) ∧
  State.reset.pending = [] ∧ exec (.reset ⟨false, false⟩) State.reset = .next State.reset ∧
  (∀ i : Fin 16, State.reset.store.slots[i] = .empty)

/-- SUPPLY_LOSS: a slot being written is CORRUPT afterwards, the other slots keep their states and records, the store is
READY with no last result (R161), and the latches are clear. That the volatile state is held at its reset values until
power-on is the model's (log entry 9). -/
def Obligations.SupplyLossInterruptsTheStore : Prop :=
  ∀ s : State, ∃ t, exec .supplyLoss s = .next t ∧
    (∀ i : Fin 16, t.store.slots[i] = if s.store.cycle.map (·.slot) = some i then .corrupt else s.store.slots[i]) ∧
    t.store.cycle = none ∧ t.store.lastResult = none ∧ t.line.storeEnd = false ∧
    t = State.afterReset s.position.reference t.store s.pending

/-! ### The encoder (chapter 1) -/

/-- QUADRATURE_EDGE: an edge that leaves the tally below the setting is only tallied; one against the tally's direction
first clears it (R1, R2). -/
def Obligations.EdgeBelowTheDividerIsTallied : Prop :=
  ∀ (s : State) (pair : PhasePair) (dir : Direction) (kept : Nat),
    IsEdge s.position.reference pair dir →
    kept = (if s.position.tallyDirection = some dir then s.position.tally else 0) →
    kept + 1 < s.tracker.lineConfig.divider →
    exec (.quadratureEdge pair) s = .next ({ s with
      position := { s.position with reference := pair, tally := kept + 1, tallyDirection := some dir } } :
        State).driveAttn

/-- QUADRATURE_EDGE that completes a forward count: P advances; where P stood at T, T steps with it and the step is offered
to the travelling sets; where P was behind T, T keeps its value, and REVERSE is armed again when P has come back to T
(R2 to R6). -/
def Obligations.ForwardCountMovesPositions : Prop :=
  ∀ (s : State) (pair : PhasePair) (kept : Nat),
    IsEdge s.position.reference pair .forward →
    kept = (if s.position.tallyDirection = some .forward then s.position.tally else 0) →
    s.tracker.lineConfig.divider ≤ kept + 1 →
    (s.position.raw = s.position.tracking →
      exec (.quadratureEdge pair) s = .next (({ s with
        position := { s.position with
          reference := pair, tally := 0, tallyDirection := some .forward
          raw := s.position.raw + 1, tracking := s.position.raw + 1 } } : State).offerCrossings
            s.position.tracking (s.position.raw + 1)).driveAttn) ∧
    (s.position.raw ≠ s.position.tracking →
      exec (.quadratureEdge pair) s = .next ({ s with
        position := { s.position with
          reference := pair, tally := 0, tallyDirection := some .forward
          raw := s.position.raw + 1
          armed := s.position.armed || decide (s.position.raw + 1 = s.position.tracking) } } : State).driveAttn)

/-- QUADRATURE_EDGE that completes a reverse count: P falls and T keeps its value; a reverse depth above the limit hands
over REVERSE once, while it is armed (R3 to R6). -/
def Obligations.ReverseCountMayRaiseReverse : Prop :=
  ∀ (s : State) (pair : PhasePair) (kept : Nat),
    IsEdge s.position.reference pair .reverse →
    kept = (if s.position.tallyDirection = some .reverse then s.position.tally else 0) →
    s.tracker.lineConfig.divider ≤ kept + 1 →
    ((s.position.armed = true ∧
        s.tracker.lineConfig.reverseLimit < (s.position.tracking - (s.position.raw - 1)).toNat) →
      exec (.quadratureEdge pair) s = .next (({ s with
        position := { s.position with
          reference := pair, tally := 0, tallyDirection := some .reverse
          raw := s.position.raw - 1, armed := false } } : State).handCause .reverse).driveAttn) ∧
    (¬(s.position.armed = true ∧
        s.tracker.lineConfig.reverseLimit < (s.position.tracking - (s.position.raw - 1)).toNat) →
      exec (.quadratureEdge pair) s = .next ({ s with
        position := { s.position with
          reference := pair, tally := 0, tallyDirection := some .reverse
          raw := s.position.raw - 1 } } : State).driveAttn)

/-- QUADRATURE_EDGE with a change of both phases: the ENCODER latch is set, the pair becomes the reference, nothing is
tallied (R1). A pair equal to the reference is no change, which is the model's reading (log entry 16). -/
def Obligations.IllegalTransitionSetsEncoder : Prop :=
  ∀ (s : State) (pair : PhasePair),
    ((pair.a ≠ s.position.reference.a ∧ pair.b ≠ s.position.reference.b) →
      exec (.quadratureEdge pair) s = .next ({ s with
        position := { s.position with reference := pair, encoderLatch := true } } : State).driveAttn) ∧
    (pair = s.position.reference → exec (.quadratureEdge pair) s = .next s.driveAttn)

/-! ### Line control (R146, R147) -/

/-- A halt cause takes RUN and DRAIN to HALT with the state left as the return state and LSTOP asserted; in HALT it joins
the cause set; in UNCONFIGURED and IDLE it is not recorded (R146, R147). -/
def Obligations.HaltCauseIsHandedOver : Prop :=
  ∀ (s : State) (c : Cause),
    (s.line.state = .run → s.handCause c =
      { s with line := { s.line with state := .halt .run, causes := s.line.causes.add c, lstop := true } }) ∧
    (s.line.state = .drain → s.handCause c =
      { s with line := { s.line with state := .halt .drain, causes := s.line.causes.add c, lstop := true } }) ∧
    (∀ r, s.line.state = .halt r → s.handCause c = { s with line := { s.line with causes := s.line.causes.add c } }) ∧
    ((s.line.state = .unconfigured ∨ s.line.state = .idle) → s.handCause c = s) ∧
    (∀ d, (s.line.causes.add c).has d = (s.line.causes.has d || decide (d = c)))

/-! ### Crossings (R11, R12, R34, R100 to R102) -/

/-- At a miss crossing a WAITING or PASSING entry becomes MISSED, MISSED joins the check word, the port's miss count rises
or, at 3, returns to 0 with MISS_RUN, and at the gate GATE_MISSED is handed over; at a close crossing an AT_STATION entry
becomes UNCONFIRMED, with GATE_UNCONFIRMED at the gate. Any other entry is left alone (R100 to R102). A station's crossings
are taken at the step that carries the distance past A + Tol and past Z, the miss crossing first (R11, R12). -/
def Obligations.StationBoundariesAreCrossed : Prop :=
  (∀ (s : State) (n : Nat) (p : StationPort) (x : SetRecord) (r : StationRole), s.findSet n = some x →
    ((x.progress.get r = some .waiting ∨ x.progress.get r = some .passing) →
      s.missCrossing p r n =
        (let t := s.updateSet n fun y => (y.setProgress r .missed).addCheck .missed
         let count := s.tracker.missCounts.get p + 1
         let u := if count < 3 then { t with tracker := { t.tracker with missCounts := t.tracker.missCounts.set p count } }
           else ({ t with tracker := { t.tracker with missCounts := t.tracker.missCounts.set p 0 } } :
             State).handCause .missRun
         if r = .gate then u.handCause .gateMissed else u)) ∧
    ((x.progress.get r ≠ some .waiting ∧ x.progress.get r ≠ some .passing) → s.missCrossing p r n = s) ∧
    (x.progress.get r = some .atStation →
      s.closeCrossing r n =
        (let t := s.updateSet n fun y => (y.setProgress r .unconfirmed).addCheck .unconfirmed
         if r = .gate then t.handCause .gateUnconfirmed else t)) ∧
    (x.progress.get r ≠ some .atStation → s.closeCrossing r n = s)) ∧
  (∀ (s : State) (n old new : Nat) (p : StationPort) (r : StationRole), (s.station p).role = .station r →
    s.stationCrossings n old new p =
      (let t := if old ≤ (s.station p).arrive + (s.station p).tol ∧ (s.station p).arrive + (s.station p).tol < new then
          s.missCrossing p r n else s
       if old ≤ (s.station p).close ∧ (s.station p).close < new then t.closeCrossing r n else t)) ∧
  (∀ (s : State) (n old new : Nat) (p : StationPort),
    ((s.station p).role = .none ∨ (s.station p).role = .collator) → s.stationCrossings n old new p = s)

/-- At a step of T every set of the queue is offered its crossings in queue order; a travelling set's stations come first
and its exit, at the gate's Z, by which it leaves the queue, last; a gathering set has none (R4, R11, R12, R34). The order
of the sets and of the ports, which R12 leaves open, is the model's choice (log entry 13). The travel distance is
(T - E) modulo 2^32 and a step of T raises it by one (R10). -/
def Obligations.ExitCrossingIsTakenLast : Prop :=
  (∀ (s : State) (before after : Position), s.offerCrossings before after =
    (s.tracker.queue.map (·.number)).foldl (fun t n => State.crossAtStep before after t n) s) ∧
  (∀ (s : State) (n : Nat) (x : SetRecord) (before after : Position), s.findSet n = some x →
    (x.state = .gathering → State.crossAtStep before after s n = s) ∧
    (∀ e, x.state = .travelling e →
      State.crossAtStep before after s n =
        (let old := (before - e).toNat
         let new := (after - e).toNat
         let t := stationPorts.foldl (fun u p => u.stationCrossings n old new p) s
         if ∃ z, exitBoundary s.tracker.stations = some z ∧ old ≤ z ∧ z < new then
           match t.findSet n with
           | none => t
           | some y => t.leave .exit y
         else t))) ∧
  (∀ (x : SetRecord) (e t : Position), x.state = .travelling e →
    x.distance t = (t - e).toNat ∧ (x.distance t + 1 < 2 ^ 32 → x.distance (t + 1) = x.distance t + 1))

/-! ### Leaving the queue (R33, R86, R88, R91, R133 to R138) -/

/-- A set that leaves gives up its record, the others keep their order; its entry is appended to the history with the next
exit number, the oldest of 32 being given up; the reject-run count moves by the outlet (R33, R135, R137, R138). The outlet
is PURGED or ABANDONED by the way of leaving and, at an exit, the taken outlet of a gate that is DONE, UNRESOLVED at one
that is UNCONFIRMED or MISSED (R133). -/
def Obligations.LeavingSetIsSettled : Prop :=
  (∀ (s : State) (w : Leaving) (x : SetRecord),
    let t := s.leave w x
    let o := outletAtLeaving w x
    let run := min (s.verdict.rejectRun + 1) 255
    let limit := s.tracker.lineConfig.rejectLimit
    t.tracker = { s.tracker with queue := s.tracker.queue.filter fun y => y.number ≠ x.number } ∧
    t.verdict = { s.verdict with
      history := (if s.verdict.history.length < 32 then s.verdict.history else s.verdict.history.tail) ++
        [⟨s.verdict.nextExit, x.number, ((s.plan.slot x.slot).number?).getD 0, o, x.commanded, x.checks, x.entry?,
          x.sheets.length⟩]
      nextExit := s.verdict.nextExit + 1
      rejectRun :=
        if o = .accept then 0
        else if o = .reject ∨ o = .rework then (if 0 < limit ∧ run = limit then 0 else run)
        else s.verdict.rejectRun } ∧
    ((o = .reject ∨ o = .rework) → 0 < limit → run = limit → t.line = s.line.handCause .rejectRun) ∧
    t.position = s.position ∧ t.store = s.store ∧ t.ports = s.ports ∧ t.pending = s.pending) ∧
  (∀ x : SetRecord,
    outletAtLeaving .purge x = .purged ∧ outletAtLeaving .abandon x = .abandoned ∧
    (∀ d, x.progress.gate = some (.done d) →
      (x.taken = some .accept → outletAtLeaving .exit x = .accept) ∧
      (x.taken = some .reject → outletAtLeaving .exit x = .reject) ∧
      (x.taken = some .rework → outletAtLeaving .exit x = .rework)) ∧
    ((x.progress.gate = some .unconfirmed ∨ x.progress.gate = some .missed) →
      outletAtLeaving .exit x = .unresolved))

/-- The outlet of a set that leaves is counted into its slot (R86). An accepted count that has come to a target above 0
sets JOB_DONE and, for the CURRENT slot, takes RUN to DRAIN or sets the return state of HALT to DRAIN (R91). Settling a set
hands its own slot and its outlet at leaving to that counting, and REJECT_RUN to line control where the reject-run count
comes to a limit above 0 (R134, R135). -/
def Obligations.OutletIsCountedIntoTheSlot : Prop :=
  (∀ c : SlotCounters,
    c.count .accept = { c with accepted := c.accepted + 1 } ∧ c.count .reject = { c with rejected := c.rejected + 1 } ∧
    c.count .rework = { c with reworked := c.reworked + 1 } ∧
    c.count .unresolved = { c with unresolved := c.unresolved + 1 } ∧
    c.count .abandoned = { c with withdrawn := c.withdrawn + 1 } ∧
    c.count .purged = { c with withdrawn := c.withdrawn + 1 }) ∧
  (∀ (s : State) (i : SlotId) (o : Outlet) (n : Nat) (j : Job),
    let j' : Job := { j with counters := j.counters.count o }
    let reached := o = .accept ∧ 0 < j.target ∧ (j.counters.accepted + 1).toNat = j.target
    (s.plan.slot i = .current n j →
      (¬reached → s.countOutlet i o = s.setSlot i (.current n j')) ∧
      (reached → s.line.state = .run → s.countOutlet i o =
        { s.setSlot i (.current n j') with line := { s.line with jobDone := true, state := .drain } }) ∧
      (reached → ∀ ret, s.line.state = .halt ret → s.countOutlet i o =
        { s.setSlot i (.current n j') with line := { s.line with jobDone := true, state := .halt .drain } }) ∧
      (reached → s.line.state = .drain → s.countOutlet i o =
        { s.setSlot i (.current n j') with line := { s.line with jobDone := true } })) ∧
    (s.plan.slot i = .draining n j →
      (¬reached → s.countOutlet i o = s.setSlot i (.draining n j')) ∧
      (reached → s.countOutlet i o =
        { s.setSlot i (.draining n j') with line := { s.line with jobDone := true } }))) ∧
  (∀ (s : State) (w : Leaving) (x : SetRecord),
    let o := outletAtLeaving w x
    let counted := s.countOutlet x.slot o
    let limit := s.tracker.lineConfig.rejectLimit
    (s.settle w x).plan = counted.plan ∧
    (s.settle w x).line =
      (if (o = .reject ∨ o = .rework) ∧ 0 < limit ∧ min (s.verdict.rejectRun + 1) 255 = limit then
        counted.line.handCause .rejectRun else counted.line) ∧
    (s.settle w x).position = s.position ∧ (s.settle w x).tracker = s.tracker ∧ (s.settle w x).store = s.store ∧
    (s.settle w x).ports = s.ports ∧ (s.settle w x).pending = s.pending)

/-- A leaving set's slot has one set fewer in the queue; a DRAINING slot whose last set has left becomes FREE, a CURRENT slot
stays CURRENT; in DRAIN with the queue empty the CURRENT slot becomes FREE and the line goes to IDLE (R86, R88). -/
def Obligations.SlotsAreReleased : Prop :=
  (∀ (s : State) (i : SlotId) (n : Nat) (j : Job),
    (s.plan.slot i = .draining n j → s.releaseSlot i =
      s.setSlot i (if j.inQueue - 1 = 0 then .free else .draining n { j with inQueue := j.inQueue - 1 })) ∧
    (s.plan.slot i = .current n j → s.releaseSlot i = s.setSlot i (.current n { j with inQueue := j.inQueue - 1 }))) ∧
  (∀ s : State,
    ((s.line.state = .drain ∧ s.tracker.queue = []) → s.releaseLine = { s with
      plan := { s.plan with
        slotA := if s.plan.slotA.isCurrent then .free else s.plan.slotA
        slotB := if s.plan.slotB.isCurrent then .free else s.plan.slotB }
      line := { s.line with state := .idle } }) ∧
    (¬(s.line.state = .drain ∧ s.tracker.queue = []) → s.releaseLine = s)) ∧
  (∀ (s : State) (w : Leaving) (x : SetRecord),
    s.leave w x = (((s.settle w x).removeSet x.number).releaseSlot x.slot).releaseLine)

/-! ### The ports (chapter 11) -/

/-- CHARACTER_RECEIVED in HUNT, LENGTH and BODY: a lead byte records T as the capture position, a length of 1 to 128 is kept,
body bytes are kept until the last of them; anything else in HUNT is ignored (R14, R164). -/
def Obligations.CharacterAdvancesTheReceiver : Prop :=
  ∀ (s : State) (p : Port),
    ((s.port p).receiver = .hunt →
      exec (.characterReceived p (.byte 0xA5)) s =
        .next (s.updatePort p fun q => { q with receiver := .length s.position.tracking }).driveAttn ∧
      (∀ ch, ch ≠ .byte 0xA5 → exec (.characterReceived p ch) s = .next s.driveAttn)) ∧
    (∀ capture (b : Byte), (s.port p).receiver = .length capture → 1 ≤ b.toNat → b.toNat ≤ 128 →
      exec (.characterReceived p (.byte b)) s =
        .next (s.updatePort p fun q => { q with receiver := .body capture b.toNat [] }).driveAttn) ∧
    (∀ capture n bytes (b : Byte), (s.port p).receiver = .body capture n bytes →
      (bytes.length + 1 < n → exec (.characterReceived p (.byte b)) s =
        .next (s.updatePort p fun q => { q with receiver := .body capture n (bytes ++ [b]) }).driveAttn) ∧
      (n ≤ bytes.length + 1 → exec (.characterReceived p (.byte b)) s =
        .next (s.updatePort p fun q => { q with receiver := .check capture n (bytes ++ [b]) }).driveAttn))

/-- FRAME_RECEIVED: a check byte that makes the sum 0 modulo 256 completes the frame, which joins a buffer of fewer than 4
and is discarded for OVERRUN otherwise; a wrong check, a bad length and a bad character drop the frame and set FRAME_ERROR;
the receiver hunts again in every case (R164, R165). -/
def Obligations.FrameIsCompletedOrDropped : Prop :=
  ∀ (s : State) (p : Port),
    (∀ capture n (k : Byte) (payload : List Byte) (b : Byte), (s.port p).receiver = .check capture n (k :: payload) →
      n < 256 →
      ((n + k.toNat + (payload.map (·.toNat)).sum + b.toNat) % 256 = 0 →
        ((s.port p).buffer.length < 4 → exec (.frameReceived p (.byte b)) s =
          .next (s.updatePort p fun q =>
            { q with receiver := .hunt, buffer := q.buffer ++ [⟨k, payload, capture⟩] }).driveAttn) ∧
        (4 ≤ (s.port p).buffer.length → exec (.frameReceived p (.byte b)) s =
          .next (s.updatePort p fun q => { q with receiver := .hunt, overrun := true }).driveAttn)) ∧
      ((n + k.toNat + (payload.map (·.toNat)).sum + b.toNat) % 256 ≠ 0 → exec (.frameReceived p (.byte b)) s =
        .next (s.updatePort p fun q => { q with receiver := .hunt, frameError := true }).driveAttn)) ∧
    (∀ capture (b : Byte), (s.port p).receiver = .length capture → (b.toNat = 0 ∨ 128 < b.toNat) →
      exec (.frameReceived p (.byte b)) s =
        .next (s.updatePort p fun q => { q with receiver := .hunt, frameError := true }).driveAttn) ∧
    ((s.port p).receiver ≠ .hunt → exec (.frameReceived p .bad) s =
      .next (s.updatePort p fun q => { q with receiver := .hunt, frameError := true }).driveAttn)

/-- FRAME_GAP_TIMEOUT drops the frame so far and sets FRAME_ERROR (R164); ANSWER_SENT removes the answer at the head of the
queue (R166). In HUNT no gap is timed, and an empty queue has no answer to send: nothing but ATTN is driven, which is the
model's choice (log entry 2). -/
def Obligations.GapTimeoutAndAnswerSent : Prop :=
  ∀ (s : State) (p : Port),
    ((s.port p).receiver ≠ .hunt → exec (.frameGapTimeout p) s =
      .next (s.updatePort p fun q => { q with receiver := .hunt, frameError := true }).driveAttn) ∧
    ((s.port p).receiver = .hunt → exec (.frameGapTimeout p) s = .next s.driveAttn) ∧
    (∀ a as, (s.port p).answers = a :: as →
      exec (.answerSent p) s = .next (s.updatePort p fun q => { q with answers := as }).driveAttn) ∧
    ((s.port p).answers = [] → exec (.answerSent p) s = .next s.driveAttn)

/-- What the port answers by itself: ROLE to a kind that is no request of it (UNKNOWN_KIND), BADLEN to a wrong length (R167),
ROLE to a collator's request or an EDGE on a port of another role (R168). A port whose answer queue is full takes nothing
(R166); that such a command changes nothing is the model's form of it (log entry 2). -/
def Obligations.PortAnswersRoleAndBadLen : Prop :=
  (∀ (s : State) (p : Port) (f : Frame) (rest : List Frame), s.Taking p f rest →
    (p = .supervisor → (f.kind.toNat < 0x20 ∨ 0x35 < f.kind.toNat) →
      exec (.unknownKind p) s = .next (s.reply p f rest (.bare .role))) ∧
    (∀ q, p = .station q → (f.kind.toNat < 0x01 ∨ 0x09 < f.kind.toNat) →
      exec (.unknownKind p) s = .next (s.reply p f rest (.bare .role))) ∧
    (∀ c, requestOf c = some (p, f.kind) → lengthFits f.kind f.payload = false →
      exec c s = .next (s.reply p f rest (.bare .badLen))) ∧
    (∀ q, p = .station q → lengthFits f.kind f.payload = true →
      ((s.station q).role ≠ .collator →
        ∀ c ∈ [Instr.openSet q, Instr.sheet q, Instr.closeSet q, Instr.abandon q], requestOf c = some (p, f.kind) →
          exec c s = .next (s.reply p f rest (.bare .role))) ∧
      (((s.station q).role = .none ∨ (s.station q).role = .collator) → f.kind = 0x05 →
        exec (.edge q) s = .next (s.reply p f rest (.bare .role))))) ∧
  (∀ (s : State) (p : Port) (c : Instr), 4 ≤ (s.port p).answers.length →
    ((∃ k, requestOf c = some (p, k)) ∨ c = .unknownKind p) → exec c s = .next s)

/-- A frame sent as its bytes to a hunting receiver whose buffer has room arrives whole, at the tail of the buffer, with the
position at which its lead byte came: no bit of kind or payload is lost (R14, R163 to R165). -/
def Obligations.SentFrameArrivesWhole : Prop :=
  ∀ (q : PortState) (t : Position) (kind : Byte) (payload : List Byte), payload.length ≤ 127 → q.receiver = .hunt →
    q.buffer.length < 4 →
    (wireFrame kind payload).foldl (fun u b => u.receive t (.byte b)) q =
      { q with buffer := q.buffer ++ [⟨kind, payload, t⟩] }

/-! ### Configuration (R54, R55, R94 to R97, R128) -/

/-- SET LINE: STATE outside UNCONFIGURED and IDLE; RANGE with the first field that fails; otherwise the four fields are
written together, the divider tally and the reject-run count are cleared, and the configuration is validated (R8, R95,
R97, R136). That the tally's direction is kept is the model's reading of R8 (log entry 15). -/
def Obligations.SetLineIsTaken : Prop :=
  ∀ (s : State) (f : Frame) (rest : List Frame) (c : LineConfig), s.Taking .supervisor f rest → f.kind = kindSetLine →
    f.payload = be1 c.divider ++ be2 c.reverseLimit ++ be2 c.spacing ++ be1 c.rejectLimit →
    c.divider < 256 → c.reverseLimit < 65536 → c.spacing < 65536 → c.rejectLimit < 256 →
    let dividerFits := c.divider = 1 ∨ c.divider = 2 ∨ c.divider = 4
    let reverseFits := 10 ≤ c.reverseLimit ∧ c.reverseLimit ≤ 2000
    let spacingFits := 100 ≤ c.spacing ∧ c.spacing ≤ 20000
    (s.line.state ≠ .unconfigured ∧ s.line.state ≠ .idle →
      exec .setLine s = .next (s.reply .supervisor f rest (.bare .state))) ∧
    (s.line.state = .unconfigured ∨ s.line.state = .idle →
      (¬dividerFits → exec .setLine s = .next (s.reply .supervisor f rest (.range 1 0))) ∧
      (dividerFits → ¬reverseFits → exec .setLine s = .next (s.reply .supervisor f rest (.range 2 0))) ∧
      (dividerFits → reverseFits → ¬spacingFits →
        exec .setLine s = .next (s.reply .supervisor f rest (.range 3 0))) ∧
      (dividerFits → reverseFits → spacingFits →
        let v := validate s.tracker.stations c
        exec .setLine s = .next (({ s with
          position := { s.position with tally := 0 }
          tracker := { s.tracker with lineConfig := c }
          verdict := { s.verdict with rejectRun := 0 }
          line := { s.line with state := if v.result = .ok then .idle else .unconfigured } } : State).reply
            .supervisor f rest ⟨.ok, be1 (configResultByte v.result) ++ be1 ((v.port.map stationNumber).getD 0)⟩)))

/-- SET STATION: STATE outside UNCONFIGURED and IDLE; RANGE with the first field that fails, A, Z and Tol only for a station
role; otherwise the port's entry is replaced whole and its miss count cleared, a STAGED plan whose hanger station the new
table lacks is discarded, and the configuration is validated (R55, R94, R97). -/
def Obligations.SetStationIsTaken : Prop :=
  ∀ (s : State) (f : Frame) (rest : List Frame) (c : StationParams), s.Taking .supervisor f rest →
    f.kind = kindSetStation →
    f.payload = be1 c.port ++ be1 c.role ++ be2 c.arrive ++ be2 c.close ++ be2 c.tol →
    c.port < 256 → c.role < 256 → c.arrive < 65536 → c.close < 65536 → c.tol < 65536 →
    (s.line.state ≠ .unconfigured ∧ s.line.state ≠ .idle →
      exec .setStation s = .next (s.reply .supervisor f rest (.bare .state))) ∧
    (s.line.state = .unconfigured ∨ s.line.state = .idle →
      ((c.port = 0 ∨ 6 < c.port) → exec .setStation s = .next (s.reply .supervisor f rest (.range 1 0))) ∧
      (1 ≤ c.port → c.port ≤ 6 → 6 < c.role → exec .setStation s = .next (s.reply .supervisor f rest (.range 2 0))) ∧
      (∀ p role, stationNumber p = c.port → roleByte role = c.role →
        let staffed := role ≠ .none ∧ role ≠ .collator
        (staffed → 65000 < c.arrive → exec .setStation s = .next (s.reply .supervisor f rest (.range 3 0))) ∧
        (staffed → c.arrive ≤ 65000 → 65000 < c.close →
          exec .setStation s = .next (s.reply .supervisor f rest (.range 4 0))) ∧
        (staffed → c.arrive ≤ 65000 → c.close ≤ 65000 → ¬(1 ≤ c.tol ∧ c.tol ≤ 500) →
          exec .setStation s = .next (s.reply .supervisor f rest (.range 5 0))) ∧
        ((staffed → c.arrive ≤ 65000 ∧ c.close ≤ 65000 ∧ 1 ≤ c.tol ∧ c.tol ≤ 500) →
          let e : Station := if role = .none ∨ role = .collator then ⟨role, 0, 0, 0⟩
            else ⟨role, c.arrive, c.close, c.tol⟩
          let table := s.tracker.stations.set p e
          let v := validate table s.tracker.lineConfig
          exec .setStation s = .next (({ s with
            tracker := { s.tracker with stations := table, missCounts := s.tracker.missCounts.set p 0 }
            plan := if s.plan.slotA.lacksHanger table ∨ s.plan.slotB.lacksHanger table then s.plan.discardStaged
              else s.plan
            line := { s.line with state := if v.result = .ok then .idle else .unconfigured } } : State).reply
              .supervisor f rest ⟨.ok, be1 (configResultByte v.result) ++ be1 ((v.port.map stationNumber).getD 0)⟩))))

/-- SET DIE: STATE outside UNCONFIGURED and IDLE; RANGE with the first die field that fails; otherwise the die record is
replaced and a STAGED plan discarded (R53, R54). -/
def Obligations.SetDieIsTaken : Prop :=
  ∀ (s : State) (f : Frame) (rest : List Frame) (d : Die), s.Taking .supervisor f rest → f.kind = kindSetDie →
    f.payload = be1 d.pins ++ be2 d.pitch ++ be2 d.offset ++ be2 d.travel →
    d.pins < 256 → d.pitch < 65536 → d.offset < 65536 → d.travel < 65536 →
    let pinsFit := 8 ≤ d.pins ∧ d.pins ≤ 64
    let pitchFits := 400 ≤ d.pitch ∧ d.pitch ≤ 2000
    (s.line.state ≠ .unconfigured ∧ s.line.state ≠ .idle →
      exec .setDie s = .next (s.reply .supervisor f rest (.bare .state))) ∧
    (s.line.state = .unconfigured ∨ s.line.state = .idle →
      (¬pinsFit → exec .setDie s = .next (s.reply .supervisor f rest (.range 1 0))) ∧
      (pinsFit → ¬pitchFits → exec .setDie s = .next (s.reply .supervisor f rest (.range 2 0))) ∧
      (pinsFit → pitchFits → 20000 < d.offset → exec .setDie s = .next (s.reply .supervisor f rest (.range 3 0))) ∧
      (pinsFit → pitchFits → d.offset ≤ 20000 → 20000 < d.travel →
        exec .setDie s = .next (s.reply .supervisor f rest (.range 4 0))) ∧
      (pinsFit → pitchFits → d.offset ≤ 20000 → d.travel ≤ 20000 →
        exec .setDie s = .next (({ s with
          plan := { s.plan with
            die := some d
            slotA := if s.plan.slotA.isStaged then .free else s.plan.slotA
            slotB := if s.plan.slotB.isStaged then .free else s.plan.slotB } } : State).reply .supervisor f rest
              ⟨.ok, be1 (if s.plan.slotA.isStaged ∨ s.plan.slotB.isStaged then 1 else 0)⟩)))

/-- SET RULES: a list of at most 8 rules replaces the rule list whole, in every line state; a count above 8 is RANGE field 1;
a bad test, mask or outlet is RANGE with its field and the number of the first rule that fails (R128, R173). -/
def Obligations.SetRulesIsTaken : Prop :=
  ∀ (s : State) (f : Frame) (rest : List Frame), s.Taking .supervisor f rest → f.kind = kindSetRules →
    (∀ rules : List VerdictRule, rules.length ≤ 8 → f.payload = be1 rules.length ++ rules.flatMap ruleBytes →
      exec .setRules s = .next (({ s with verdict := { s.verdict with rules := rules } } : State).reply
        .supervisor f rest ⟨.ok, be1 rules.length⟩)) ∧
    (∀ n tail, 8 < n → n < 256 → tail.length = 4 * n → f.payload = be1 n ++ tail →
      exec .setRules s = .next (s.reply .supervisor f rest (.range 1 0))) ∧
    (∀ (n : Nat) (good : List VerdictRule) (test mask outlet : Nat) (tail : List Byte), n ≤ 8 →
      n = good.length + 1 + tail.length / 4 → tail.length % 4 = 0 → test < 256 → mask < 65536 → outlet < 256 →
      f.payload = be1 n ++ good.flatMap ruleBytes ++ (be1 test ++ be2 mask ++ be1 outlet) ++ tail →
      (test ≠ 1 ∧ test ≠ 2 →
        exec .setRules s = .next (s.reply .supervisor f rest (.range 2 (good.length + 1)))) ∧
      ((test = 1 ∨ test = 2) → 32768 ≤ mask →
        exec .setRules s = .next (s.reply .supervisor f rest (.range 3 (good.length + 1)))) ∧
      ((test = 1 ∨ test = 2) → mask < 32768 → (outlet = 0 ∨ 3 < outlet) →
        exec .setRules s = .next (s.reply .supervisor f rest (.range 4 (good.length + 1)))))

/-- The configuration result is the first of the eleven of R96 whose condition fails, with the port it gives, and OK, with
no port, exactly when no condition fails. -/
def Obligations.ValidConfigurationFailsNoCondition : Prop :=
  (∀ (table : PerStation Station) (c : LineConfig),
    (validate table c).result = .ok ↔
      ((portsWith table .collator).length = 1 ∧ (portsWith table (.station .punch)).length = 1 ∧
        (portsWith table (.station .binder)).length = 1 ∧ (portsWith table (.station .gate)).length = 1 ∧
        (portsWith table (.station .notch)).length ≤ 1 ∧ (portsWith table (.station .drill)).length ≤ 1 ∧
        (∀ p r, (table.get p).role = .station r →
          (table.get p).tol < (table.get p).arrive ∧ (table.get p).arrive + (table.get p).tol ≤ (table.get p).close ∧
          2 * (table.get p).tol < c.spacing ∧
          (∀ b, (table.get b).role = .station .binder → (r = .punch ∨ r = .notch ∨ r = .drill) →
            (table.get p).arrive < (table.get b).arrive) ∧
          (∀ g, (table.get g).role = .station .gate → r ≠ .gate →
            (table.get p).close + (table.get g).tol ≤ (table.get g).arrive)))) ∧
  (∀ (table : PerStation Station) (c : LineConfig),
    (validate table c = ⟨.ok, none⟩ ↔ ∀ result port, ¬ConfigFails table c result port) ∧
    (∀ result port, result ≠ .ok →
      (validate table c = ⟨result, port⟩ ↔ ConfigFails table c result port ∧
        ∀ before other, configResultByte before < configResultByte result → ¬ConfigFails table c before other)))

/-! ### The recipe store (chapter 10) -/

/-- STORE and ERASE: RANGE field 0 for a slot number outside 1 to 16, RANGE for the first recipe field that fails, BUSY while
a program cycle is in flight; otherwise the cycle begins, the slot gives up its contents, and OK is answered at once
(R156, R157, R159). That the slot being written is held CORRUPT is the model's mark (log entry 6). -/
def Obligations.StoreAndEraseBeginACycle : Prop :=
  (∀ (s : State) (f : Frame) (rest : List Frame) (n : Nat) (r : Recipe), s.Taking .supervisor f rest →
    f.kind = kindStore → f.payload = be1 n ++ recipeBytes r → n < 256 → r.fitsLayout = true →
    ((n = 0 ∨ 16 < n) → exec .store s = .next (s.reply .supervisor f rest (.range 0 0))) ∧
    (∀ i : Fin 16, n = i.val + 1 →
      (∀ e, rangeFailure r = some e → exec .store s = .next (s.reply .supervisor f rest (.range e.field e.group))) ∧
      (rangeFailure r = none → s.store.cycle ≠ none →
        exec .store s = .next (s.reply .supervisor f rest (.bare .busy))) ∧
      (rangeFailure r = none → s.store.cycle = none →
        exec .store s = .next (({ s with
          store := { s.store with slots := s.store.slots.set i .corrupt, cycle := some ⟨.store r, i⟩ } } : State).reply
            .supervisor f rest ⟨.ok, be1 n⟩)))) ∧
  (∀ (s : State) (f : Frame) (rest : List Frame) (n : Nat), s.Taking .supervisor f rest →
    f.kind = kindErase → f.payload = be1 n → n < 256 →
    ((n = 0 ∨ 16 < n) → exec .erase s = .next (s.reply .supervisor f rest (.range 0 0))) ∧
    (∀ i : Fin 16, n = i.val + 1 →
      (s.store.cycle ≠ none → exec .erase s = .next (s.reply .supervisor f rest (.bare .busy))) ∧
      (s.store.cycle = none →
        exec .erase s = .next (({ s with
          store := { s.store with slots := s.store.slots.set i .corrupt, cycle := some ⟨.erase, i⟩ } } : State).reply
            .supervisor f rest ⟨.ok, be1 n⟩))))

/-- PROGRAM_CYCLE_END: after STORE the slot is VALID with the record if what is read back agrees with the copy and CORRUPT if
not, after ERASE it is EMPTY; the result is recorded, the store is READY, STORE_END is set (R153, R158). With no cycle in
flight nothing ends, which is the model's choice (log entry 2). -/
def Obligations.ProgramCycleEndsInItsSlot : Prop :=
  ∀ (s : State) (back : ReadBack),
    (∀ copy i, s.store.cycle = some ⟨.store copy, i⟩ →
      ((back = .asCarried ∨ back = .record copy) → exec (.programCycleEnd back) s = .next ({ s with
        store := ⟨s.store.slots.set i (.valid copy), none, some ⟨.store, i, .valid⟩⟩
        line := { s.line with storeEnd := true } } : State).driveAttn) ∧
      (∀ r, back = .record r → r ≠ copy → exec (.programCycleEnd back) s = .next ({ s with
        store := ⟨s.store.slots.set i .corrupt, none, some ⟨.store, i, .corrupt⟩⟩
        line := { s.line with storeEnd := true } } : State).driveAttn)) ∧
    (∀ i, s.store.cycle = some ⟨.erase, i⟩ → exec (.programCycleEnd back) s = .next ({ s with
      store := ⟨s.store.slots.set i .empty, none, some ⟨.erase, i, .empty⟩⟩
      line := { s.line with storeEnd := true } } : State).driveAttn) ∧
    (s.store.cycle = none → exec (.programCycleEnd back) s = .next s)

/-- READ RECIPE in every line state: RANGE field 0, BUSY while PROGRAMMING, EMPTY, CORRUPT, or OK with the whole record; it
changes no state (R160). -/
def Obligations.ReadRecipeAnswersTheSlot : Prop :=
  ∀ (s : State) (f : Frame) (rest : List Frame) (n : Nat), s.Taking .supervisor f rest → f.kind = kindReadRecipe →
    f.payload = be1 n → n < 256 →
    ((n = 0 ∨ 16 < n) → exec .readRecipe s = .next (s.reply .supervisor f rest (.range 0 0))) ∧
    (∀ i : Fin 16, n = i.val + 1 →
      (s.store.cycle ≠ none → exec .readRecipe s = .next (s.reply .supervisor f rest (.bare .busy))) ∧
      (s.store.cycle = none →
        (s.store.slots[i] = .empty → exec .readRecipe s = .next (s.reply .supervisor f rest (.bare .empty))) ∧
        (s.store.slots[i] = .corrupt → exec .readRecipe s = .next (s.reply .supervisor f rest (.bare .corrupt))) ∧
        (∀ r, s.store.slots[i] = .valid r →
          exec .readRecipe s = .next (s.reply .supervisor f rest ⟨.ok, recipeBytes r⟩))))

/-! ### Jobs in the plan slots (chapters 4, 5) -/

/-- STAGE and STAGE INLINE: the refusals of R79 in order; a computation that ends with an error leaves the target slot as it
was and answers the error; one without puts recipe, plan, source and target into the target slot as STAGED with its counts
at 0 and answers OK with slot, hole count and CLAMPED (R57, R79 to R81). -/
def Obligations.StagingFillsTheTargetSlot : Prop :=
  (∀ (s : State) (f : Frame) (rest : List Frame) (n : Nat), s.Taking .supervisor f rest → f.kind = kindStage →
    f.payload = be1 n → n < 256 →
    (s.line.state = .unconfigured → exec .stage s = .next (s.reply .supervisor f rest (.bare .state))) ∧
    (s.line.state ≠ .unconfigured →
      ((n = 0 ∨ 16 < n) → exec .stage s = .next (s.reply .supervisor f rest (.range 0 0))) ∧
      (∀ i : Fin 16, n = i.val + 1 →
        ((¬s.plan.IsTarget .a ∧ ¬s.plan.IsTarget .b) →
          exec .stage s = .next (s.reply .supervisor f rest (.bare .busy))) ∧
        (∀ slot, s.plan.IsTarget slot →
          (s.store.cycle ≠ none → exec .stage s = .next (s.reply .supervisor f rest (.bare .busy))) ∧
          (s.store.cycle = none →
            (s.store.slots[i] = .empty → exec .stage s = .next (s.reply .supervisor f rest (.bare .empty))) ∧
            (s.store.slots[i] = .corrupt → exec .stage s = .next (s.reply .supervisor f rest (.bare .corrupt))) ∧
            (∀ r, s.store.slots[i] = .valid r →
              (∀ e, computePlan r s.plan.die s.tracker.stations = .error e →
                exec .stage s = .next (s.reply .supervisor f rest e.answer)) ∧
              (∀ plan, computePlan r s.plan.die s.tracker.stations = .ok plan →
                exec .stage s = .next ((s.setSlot slot
                  (.staged ⟨r, plan, .store n, r.target, 0, ⟨0, 0, 0, 0, 0, 0⟩⟩)).reply .supervisor f rest
                    ⟨.ok, be1 (slotIdByte slot) ++ be1 plan.holes ++ beBool plan.clamped⟩)))))))) ∧
  (∀ (s : State) (f : Frame) (rest : List Frame) (r : Recipe), s.Taking .supervisor f rest →
    f.kind = kindStageInline → f.payload = recipeBytes r → r.fitsLayout = true →
    (s.line.state = .unconfigured → exec .stageInline s = .next (s.reply .supervisor f rest (.bare .state))) ∧
    (s.line.state ≠ .unconfigured →
      ((¬s.plan.IsTarget .a ∧ ¬s.plan.IsTarget .b) →
        exec .stageInline s = .next (s.reply .supervisor f rest (.bare .busy))) ∧
      (∀ slot, s.plan.IsTarget slot →
        (∀ e, computePlan r s.plan.die s.tracker.stations = .error e →
          exec .stageInline s = .next (s.reply .supervisor f rest e.answer)) ∧
        (∀ plan, computePlan r s.plan.die s.tracker.stations = .ok plan →
          exec .stageInline s = .next ((s.setSlot slot
            (.staged ⟨r, plan, .inlined, r.target, 0, ⟨0, 0, 0, 0, 0, 0⟩⟩)).reply .supervisor f rest
              ⟨.ok, be1 (slotIdByte slot) ++ be1 plan.holes ++ beBool plan.clamped⟩)))))

/-- DISCARD in every line state: the STAGED slot becomes FREE and is named in the answer; with no slot STAGED the request is
refused with STATE and changes nothing (R82). -/
def Obligations.DiscardFreesTheStagedSlot : Prop :=
  ∀ (s : State) (f : Frame) (rest : List Frame), s.Taking .supervisor f rest → f.kind = kindDiscard → f.payload = [] →
    (s.plan.slotA.isStaged = true → exec .discard s =
      .next ((s.setSlot .a .free).reply .supervisor f rest ⟨.ok, be1 1⟩)) ∧
    (s.plan.slotA.isStaged = false → s.plan.slotB.isStaged = true → exec .discard s =
      .next ((s.setSlot .b .free).reply .supervisor f rest ⟨.ok, be1 2⟩)) ∧
    (s.plan.slotA.isStaged = false → s.plan.slotB.isStaged = false →
      exec .discard s = .next (s.reply .supervisor f rest (.bare .state)))

/-- CHANGEOVER: STATE in UNCONFIGURED or with no slot STAGED; otherwise the old CURRENT slot becomes DRAINING with sets in the
queue and FREE without, the STAGED slot becomes CURRENT with the job counter's number and its counts at 0, the job counter
advances from 65535 to 1, and the line goes to RUN or, in HALT, its return state becomes RUN (R83 to R85). The two slots are
taken not to be STAGED both, a law of R78. -/
def Obligations.ChangeoverMakesTheStagedSlotCurrent : Prop :=
  ∀ (s : State) (f : Frame) (rest : List Frame), s.Taking .supervisor f rest → f.kind = kindChangeover →
    f.payload = [] →
    let number := s.plan.jobCounter
    let next := if s.plan.jobCounter = 65535 then 1 else s.plan.jobCounter + 1
    let displaced := fun x : PlanSlot =>
      match x with
      | .current n j => if 0 < j.inQueue then PlanSlot.draining n j else .free
      | .free => .free
      | .staged j => .staged j
      | .draining n j => .draining n j
    let moved : LineState :=
      match s.line.state with
      | .halt _ => .halt .run
      | _ => .run
    ((s.line.state = .unconfigured ∨ (s.plan.slotA.isStaged = false ∧ s.plan.slotB.isStaged = false)) →
      exec .changeover s = .next (s.reply .supervisor f rest (.bare .state))) ∧
    (s.line.state ≠ .unconfigured →
      (∀ j, s.plan.slotA = .staged j → s.plan.slotB.isStaged = false →
        exec .changeover s = .next (({ s with
          plan := ⟨s.plan.die, .current number { j with inQueue := 0, counters := ⟨0, 0, 0, 0, 0, 0⟩ },
            displaced s.plan.slotB, next⟩
          line := { s.line with state := moved } } : State).reply .supervisor f rest
            ⟨.ok, be1 1 ++ be2 number⟩)) ∧
      (∀ j, s.plan.slotB = .staged j → s.plan.slotA.isStaged = false →
        exec .changeover s = .next (({ s with
          plan := ⟨s.plan.die, displaced s.plan.slotA,
            .current number { j with inQueue := 0, counters := ⟨0, 0, 0, 0, 0, 0⟩ }, next⟩
          line := { s.line with state := moved } } : State).reply .supervisor f rest
            ⟨.ok, be1 2 ++ be2 number⟩)))

/-- END JOB: STATE in UNCONFIGURED and IDLE; RUN goes to DRAIN or, with the queue empty, to IDLE with the CURRENT slot FREE; in
HALT the return state becomes DRAIN; in DRAIN nothing changes (R88, R90). -/
def Obligations.EndJobDrainsTheLine : Prop :=
  ∀ (s : State) (f : Frame) (rest : List Frame), s.Taking .supervisor f rest → f.kind = kindEndJob → f.payload = [] →
    ((s.line.state = .unconfigured ∨ s.line.state = .idle) →
      exec .endJob s = .next (s.reply .supervisor f rest (.bare .state))) ∧
    (s.line.state = .run →
      (s.tracker.queue ≠ [] → exec .endJob s =
        .next (({ s with line := { s.line with state := .drain } } : State).reply .supervisor f rest (.bare .ok))) ∧
      (s.tracker.queue = [] → exec .endJob s =
        .next (({ s with
          plan := { s.plan with
            slotA := if s.plan.slotA.isCurrent then .free else s.plan.slotA
            slotB := if s.plan.slotB.isCurrent then .free else s.plan.slotB }
          line := { s.line with state := .idle } } : State).reply .supervisor f rest (.bare .ok)))) ∧
    (∀ ret, s.line.state = .halt ret → exec .endJob s =
      .next (({ s with line := { s.line with state := .halt .drain } } : State).reply .supervisor f rest (.bare .ok))) ∧
    (s.line.state = .drain → exec .endJob s = .next (s.reply .supervisor f rest (.bare .ok)))

/-! ### The line (chapter 9) -/

/-- STOP: STATE in UNCONFIGURED and IDLE; in RUN and DRAIN the line goes to HALT with OPERATOR in the cause set and the state
left as the return state; in HALT OPERATOR joins the cause set (R146 to R148). -/
def Obligations.StopHandsOverOperator : Prop :=
  ∀ (s : State) (f : Frame) (rest : List Frame), s.Taking .supervisor f rest → f.kind = kindStop → f.payload = [] →
    ((s.line.state = .unconfigured ∨ s.line.state = .idle) →
      exec .stop s = .next (s.reply .supervisor f rest (.bare .state))) ∧
    (s.line.state = .run → exec .stop s =
      .next (({ s with line := { s.line with
        state := .halt .run, causes := { s.line.causes with operator := true }, lstop := true } } : State).reply
          .supervisor f rest (.bare .ok))) ∧
    (s.line.state = .drain → exec .stop s =
      .next (({ s with line := { s.line with
        state := .halt .drain, causes := { s.line.causes with operator := true }, lstop := true } } : State).reply
          .supervisor f rest (.bare .ok))) ∧
    (∀ ret, s.line.state = .halt ret → exec .stop s =
      .next (({ s with line := { s.line with causes := { s.line.causes with operator := true } } } : State).reply
        .supervisor f rest (.bare .ok)))

/-- RESUME: STATE outside HALT; in HALT the cause set is emptied, the reject-run count cleared, LSTOP released and the line goes
to its return state, or from DRAIN with the queue empty on to IDLE with the CURRENT slot FREE; the answer names the line
state reached (R89, R136, R149, R151). -/
def Obligations.ResumeLeavesHalt : Prop :=
  ∀ (s : State) (f : Frame) (rest : List Frame), s.Taking .supervisor f rest → f.kind = kindResume → f.payload = [] →
    ((∀ ret, s.line.state ≠ .halt ret) → exec .resume s = .next (s.reply .supervisor f rest (.bare .state))) ∧
    (s.line.state = .halt .run → exec .resume s =
      .next (({ s with
        line := { s.line with state := .run, causes := {}, lstop := false }
        verdict := { s.verdict with rejectRun := 0 } } : State).reply .supervisor f rest ⟨.ok, be1 3⟩)) ∧
    (s.line.state = .halt .drain → s.tracker.queue ≠ [] → exec .resume s =
      .next (({ s with
        line := { s.line with state := .drain, causes := {}, lstop := false }
        verdict := { s.verdict with rejectRun := 0 } } : State).reply .supervisor f rest ⟨.ok, be1 4⟩)) ∧
    (s.line.state = .halt .drain → s.tracker.queue = [] → exec .resume s =
      .next (({ s with
        plan := { s.plan with
          slotA := if s.plan.slotA.isCurrent then .free else s.plan.slotA
          slotB := if s.plan.slotB.isCurrent then .free else s.plan.slotB }
        line := { s.line with state := .idle, causes := {}, lstop := false }
        verdict := { s.verdict with rejectRun := 0 } } : State).reply .supervisor f rest ⟨.ok, be1 2⟩))

/-- PURGE: STATE outside HALT; in HALT every set leaves in queue order as PURGED: the queue is empty, the history gains one
entry for each with consecutive exit numbers and keeps the newest 32, each set is counted as withdrawn, a DRAINING slot
becomes FREE, the CURRENT slot and the line stay (R35, R86, R88, R137, R138). The state is taken to keep the laws of queue and
slots (`State.SlotLaw`) and of the history. -/
def Obligations.PurgeWithdrawsEverySet : Prop :=
  ∀ (s : State) (f : Frame) (rest : List Frame), s.Taking .supervisor f rest → f.kind = kindPurge → f.payload = [] →
    ((∀ ret, s.line.state ≠ .halt ret) → exec .purge s = .next (s.reply .supervisor f rest (.bare .state))) ∧
    (∀ ret, s.line.state = .halt ret → s.SlotLaw → s.HistoryLaw →
      let purged := fun x : PlanSlot =>
        match x with
        | .draining _ _ => PlanSlot.free
        | .current n j => .current n { j with
            inQueue := 0
            counters := { j.counters with withdrawn := j.counters.withdrawn + BitVec.ofNat 32 j.inQueue } }
        | .free => .free
        | .staged j => .staged j
      let entries := s.verdict.history ++ s.tracker.queue.mapIdx fun k x =>
        (⟨s.verdict.nextExit + BitVec.ofNat 32 k, x.number, ((s.plan.slot x.slot).number?).getD 0, .purged, x.commanded,
          x.checks, x.entry?, x.sheets.length⟩ : HistoryEntry)
      exec .purge s = .next (({ s with
        tracker := { s.tracker with queue := [] }
        plan := { s.plan with slotA := purged s.plan.slotA, slotB := purged s.plan.slotB }
        verdict := { s.verdict with
          history := entries.drop (entries.length - 32)
          nextExit := s.verdict.nextExit + BitVec.ofNat 32 s.tracker.queue.length } } : State).reply .supervisor f rest
            ⟨.ok, be1 s.tracker.queue.length⟩))

/-! ### What the supervisor reads and marks -/

/-- MARK SAMPLE: NO_SET for a set not in the queue; SAMPLE joins the check word while the gate's entry is WAITING; LATE in any
other state (R37). -/
def Obligations.MarkSampleBeforeTheGate : Prop :=
  ∀ (s : State) (f : Frame) (rest : List Frame) (n : Nat), s.Taking .supervisor f rest → f.kind = kindMarkSample →
    f.payload = be2 n → n < 65536 →
    (s.findSet n = none → exec .markSample s = .next (s.reply .supervisor f rest (.bare .noSet))) ∧
    (∀ x, s.findSet n = some x →
      (x.progress.gate = some .waiting → exec .markSample s =
        .next ((s.updateSet n fun y => { y with checks := { y.checks with sample := true } }).reply .supervisor f rest
          (.bare .ok))) ∧
      (x.progress.gate ≠ some .waiting → exec .markSample s = .next (s.reply .supervisor f rest (.bare .late))))

/-- READ STATUS answers OK with the status as it stands, then clears the JOB_DONE, STORE_END and ENCODER latches and nothing
else; ATTN follows (R7, R152 to R154). -/
def Obligations.ReadStatusClearsTheLatches : Prop :=
  ∀ (s : State) (f : Frame) (rest : List Frame), s.Taking .supervisor f rest → f.kind = kindReadStatus →
    f.payload = [] →
    exec .readStatus s = .next (({ s with
      position := { s.position with encoderLatch := false }
      line := { s.line with jobDone := false, storeEnd := false } } : State).reply .supervisor f rest
        ⟨.ok, statusBytes s⟩)

/-- READ SET and READ PLAN change no state: the whole set record with its travel distance, or NO_SET (R36); the slot's state,
source, recipe copy, die record and hole plan, EMPTY for a FREE slot, RANGE for a slot that is neither A nor B (R77). The
progress entries that READ SET sends are those of the record, three to five, which is the model's choice (log entry 25). -/
def Obligations.ReadSetAndReadPlanChangeNothing : Prop :=
  (∀ (s : State) (f : Frame) (rest : List Frame) (n : Nat), s.Taking .supervisor f rest → f.kind = kindReadSet →
    f.payload = be2 n → n < 65536 →
    (s.findSet n = none → exec .readSet s = .next (s.reply .supervisor f rest (.bare .noSet))) ∧
    (∀ x, s.findSet n = some x →
      exec .readSet s = .next (s.reply .supervisor f rest ⟨.ok, setRecordBytes s.position.tracking x⟩))) ∧
  (∀ (s : State) (f : Frame) (rest : List Frame) (n : Nat), s.Taking .supervisor f rest → f.kind = kindReadPlan →
    f.payload = be1 n → n < 256 →
    (n ≠ 1 ∧ n ≠ 2 → exec .readPlan s = .next (s.reply .supervisor f rest (.range 1 0))) ∧
    (∀ i, slotIdByte i = n →
      (s.plan.slot i = .free → exec .readPlan s = .next (s.reply .supervisor f rest (.bare .empty))) ∧
      (∀ j d, (s.plan.slot i).job? = some j → s.plan.die = some d →
        exec .readPlan s = .next (s.reply .supervisor f rest
          ⟨.ok, be1 (planSlotStateByte (s.plan.slot i)) ++ be1 (sourceByte j.source) ++ recipeBytes j.recipe ++
            dieBytes d ++ holePlanBytes j.plan⟩))))

/-- READ HISTORY by the three cases of the lag, and REWIND to the oldest entry or, with none, to X; neither changes an entry
(R139 to R141). The history is taken to keep its law, by which the pointer's entry is the one `lag` places from the end. -/
def Obligations.HistoryIsReadByTheLag : Prop :=
  (∀ (s : State) (f : Frame) (rest : List Frame), s.Taking .supervisor f rest → f.kind = kindReadHistory →
    f.payload = [] → s.HistoryLaw →
    let lag := (s.verdict.nextExit - s.verdict.readPointer).toNat
    let held := s.verdict.history.length
    (lag = 0 → exec .readHistory s = .next (s.reply .supervisor f rest (.bare .empty))) ∧
    (∀ e, 0 < lag → lag ≤ held → s.verdict.history[held - lag]? = some e →
      e.exitNumber = s.verdict.readPointer ∧
      exec .readHistory s = .next (({ s with
        verdict := { s.verdict with readPointer := s.verdict.readPointer + 1 } } : State).reply .supervisor f rest
          ⟨.ok, be4 0 ++ historyEntryBytes e⟩)) ∧
    (∀ e, held < lag → s.verdict.history[0]? = some e →
      exec .readHistory s = .next (({ s with
        verdict := { s.verdict with readPointer := e.exitNumber + 1 } } : State).reply .supervisor f rest
          ⟨.ok, be4 (lag - held) ++ historyEntryBytes e⟩))) ∧
  (∀ (s : State) (f : Frame) (rest : List Frame), s.Taking .supervisor f rest → f.kind = kindRewind → f.payload = [] →
    (∀ e, s.verdict.history[0]? = some e → exec .rewind s =
      .next (({ s with verdict := { s.verdict with readPointer := e.exitNumber } } : State).reply .supervisor f rest
        ⟨.ok, be4 e.exitNumber.toNat⟩)) ∧
    (s.verdict.history = [] → exec .rewind s =
      .next (({ s with verdict := { s.verdict with readPointer := s.verdict.nextExit } } : State).reply .supervisor f
        rest ⟨.ok, be4 s.verdict.nextExit.toNat⟩)))

/-- READ PORT STATUS: RANGE outside ports 0 to 6; otherwise OK with the port's number, role and flags, which are then cleared
at that port alone (R170). -/
def Obligations.ReadPortStatusClearsTheFlags : Prop :=
  ∀ (s : State) (f : Frame) (rest : List Frame) (n : Nat), s.Taking .supervisor f rest → f.kind = kindReadPortStatus →
    f.payload = be1 n → n < 256 →
    (6 < n → exec .readPortStatus s = .next (s.reply .supervisor f rest (.range 1 0))) ∧
    (∀ p, portNumber p = n →
      let role := match p with
        | .supervisor => 7
        | .station q => roleByte (s.station q).role
      let flags := (s.port p).frameError.toNat + 2 * (s.port p).overrun.toNat + 4 * (s.port p).unmatchedEdge.toNat
      exec .readPortStatus s = .next ((s.updatePort p fun q =>
        { q with frameError := false, overrun := false, unmatchedEdge := false }).reply .supervisor f rest
          ⟨.ok, be1 n ++ be1 role ++ be1 flags⟩))

/-! ### The collator (chapters 2, 3) -/

/-- OPEN on the collator's port: STATE, FULL, BUSY and QUOTA by the first test of R21 that holds; otherwise a GATHERING record
under the CURRENT slot joins the tail, the next set number advances past it, the last opened number is replaced, and the slot
counts one set more in the queue and one more opened (R17, R22, R23, R86, R87). The number given is the first from the
next set number on that no record carries (R17). That the record has an entry for each of the five roles of R99's list that
is present, three to five, where the text after R99 and section 2.2 count four to six, is the model's choice (log entry 25). -/
def Obligations.OpenAppendsAGatheringSet : Prop :=
  (∀ (s : State) (p : StationPort) (f : Frame) (rest : List Frame), s.Taking (.station p) f rest →
    f.kind = kindOpen → f.payload = [] → (s.station p).role = .collator →
    (s.line.state ≠ .run → exec (.openSet p) s = .next (s.reply (.station p) f rest (.bare .state))) ∧
    (s.line.state = .run →
      (16 ≤ s.tracker.queue.length → exec (.openSet p) s = .next (s.reply (.station p) f rest (.bare .full))) ∧
      (s.tracker.queue.length < 16 →
        ((∃ x ∈ s.tracker.queue, x.state = .gathering) →
          exec (.openSet p) s = .next (s.reply (.station p) f rest (.bare .busy))) ∧
        ((∀ x ∈ s.tracker.queue, x.state ≠ .gathering) → ∀ i n j, s.plan.slot i = .current n j →
          (i = .b → s.plan.slotA.isCurrent = false) →
          let allowed := j.target = 0 ∨ j.counters.accepted.toNat + j.inQueue < j.target
          let number := s.tracker.freshNumber
          let first := fun r : StationRole =>
            if (portsWith s.tracker.stations (.station r)).isEmpty then none
            else if (r = .notch ∧ j.recipe.styleCode ≠ 1) ∨ (r = .drill ∧ j.recipe.styleCode ≠ 2) then
              some Progress.passing
            else some .waiting
          (¬allowed → exec (.openSet p) s = .next (s.reply (.station p) f rest (.bare .quota))) ∧
          (allowed → exec (.openSet p) s = .next (({ s with
            tracker := { s.tracker with
              queue := s.tracker.queue ++ [⟨number, i, .gathering, [], none, 0,
                ⟨first .punch, first .notch, first .drill, first .binder, first .gate⟩, {}, none, none⟩]
              nextNumber := if number = 65535 then 1 else number + 1
              lastOpened := some number }
            plan := s.plan.setSlot i (.current n { j with
              inQueue := j.inQueue + 1
              counters := { j.counters with opened := j.counters.opened + 1 } }) } : State).reply (.station p) f rest
                ⟨.ok, be2 number ++ be1 (j.recipe.groups.map (·.count)).sum⟩)))))) ∧
  (∀ t : SetTracker, t.queue.length ≤ 16 →
    (∀ x ∈ t.queue, x.number ≠ t.freshNumber) ∧
    ∃ k, k ≤ t.queue.length ∧ t.freshNumber = Nat.repeat (fun n => if n = 65535 then 1 else n + 1) k t.nextNumber ∧
      ∀ m < k, ∃ x ∈ t.queue, x.number = Nat.repeat (fun n => if n = 65535 then 1 else n + 1) m t.nextNumber)

/-- SHEET: the refusals of R23 and R24 in order; DUPLICATE below the next expected index; LONG at or beyond the sheet total;
otherwise the skipped indices are filled UNREAD and the sheet is appended, with GAUGE_GAP and the check of its class
(R25 to R27, R44). A reading is clamped at 4000, 0 is no reading; the class is the first test of R41 that holds, and the planning
caliper the greater of reading and nominal (R40 to R43). -/
def Obligations.SheetIsRecorded : Prop :=
  (∀ (s : State) (p : StationPort) (f : Frame) (rest : List Frame) (n index caliper : Nat),
    s.Taking (.station p) f rest → f.kind = kindSheet → f.payload = be2 n ++ be1 index ++ be2 caliper →
    n < 65536 → index < 256 → caliper < 4096 → (s.station p).role = .collator →
    (s.findSet n = none → exec (.sheet p) s = .next (s.reply (.station p) f rest
      (.bare (if s.tracker.lastOpened = some n then .state else .noSet)))) ∧
    (∀ x, s.findSet n = some x →
      (x.state ≠ .gathering → exec (.sheet p) s = .next (s.reply (.station p) f rest (.bare .state))) ∧
      (x.state = .gathering →
        (32 ≤ index → exec (.sheet p) s = .next (s.reply (.station p) f rest (.range 2 0))) ∧
        (index < 32 →
          let r := s.slotRecipe x.slot
          let e := sheetEntryOf r index caliper
          (index < x.sheets.length → exec (.sheet p) s = .next (s.reply (.station p) f rest (.bare .duplicate))) ∧
          (x.sheets.length ≤ index → r.sheetTotal ≤ index →
            exec (.sheet p) s = .next ((s.updateSet n fun y => y.addCheck .long).reply (.station p) f rest
              (.bare .ok))) ∧
          (x.sheets.length ≤ index → index < r.sheetTotal →
            exec (.sheet p) s = .next ((s.updateSet n fun y => { y with
              sheets := y.sheets ++
                ((List.range' y.sheets.length (index - y.sheets.length)).map fun i => sheetEntryOf r i 0) ++ [e]
              checks := { y.checks with
                gaugeGap := y.checks.gaugeGap || decide (y.sheets.length < index) || decide (caliper = 0)
                thin := y.checks.thin || decide (e.sheetClass = .thin)
                thick := y.checks.thick || decide (e.sheetClass = .thick)
                double := y.checks.double || decide (e.sheetClass = .double) } }).reply (.station p) f rest
                  (.bare .ok))))))) ∧
  (∀ (r : Recipe) (index caliper : Nat) (g : SheetGroup), groupOfIndex r.groups index = some g →
    let n := (g.nominal : Int)
    let tol := (g.tolerance : Int)
    let m := min caliper 4000
    (caliper = 0 → sheetEntryOf r index caliper = ⟨none, .unread, g.nominal⟩) ∧
    (0 < caliper → sheetEntryOf r index caliper = ⟨some m,
      if (m : Int) < n - tol then .thin else if (m : Int) ≤ n + tol then .ok
      else if 2 * n - tol ≤ m then .double else .thick, max m g.nominal⟩))

/-- CLOSE: the refusals of R23 and R28 in order; otherwise the set travels from the capture position of the frame, with SHORT,
CROWDED against the travelling set ahead, and its lift plan, and the boundaries its distance already exceeds are crossed last;
the answer gives the lift count (R13, R29 to R31, R51). That the exit is one of these boundaries is the model's reading (log
entry 14); the order in which the stations' ports are visited is the model's choice (log entry 13). -/
def Obligations.CloseStartsTravel : Prop :=
  ∀ (s : State) (p : StationPort) (f : Frame) (rest : List Frame) (n : Nat), s.Taking (.station p) f rest →
    f.kind = kindClose → f.payload = be2 n → n < 65536 → (s.station p).role = .collator →
    (s.findSet n = none → exec (.closeSet p) s = .next (s.reply (.station p) f rest
      (.bare (if s.tracker.lastOpened = some n then .state else .noSet)))) ∧
    (∀ x, s.findSet n = some x →
      (x.state ≠ .gathering → exec (.closeSet p) s = .next (s.reply (.station p) f rest (.bare .state))) ∧
      (x.state = .gathering →
        (x.sheets = [] → exec (.closeSet p) s = .next (s.reply (.station p) f rest (.bare .empty))) ∧
        (x.sheets ≠ [] →
          let r := s.slotRecipe x.slot
          let lifts := planLifts r x.sheets
          let ahead := ((s.tracker.queue.filter fun y => y.number ≠ n).filterMap SetRecord.entry?).getLast?
          let crowded := match ahead with
            | none => false
            | some e => decide ((f.capture - e).toNat < s.tracker.lineConfig.spacing)
          let y : SetRecord := { x with
            state := .travelling f.capture
            liftPlan := lifts.plan
            checks := { x.checks with
              short := x.checks.short || decide (x.sheets.length < r.sheetTotal)
              crowded := x.checks.crowded || crowded
              liftOverload := x.checks.liftOverload || lifts.overload
              liftLimit := x.checks.liftLimit || lifts.limit } }
          exec (.closeSet p) s = .next (((s.updateSet n fun _ => y).crossSet n 0
            (s.position.tracking - f.capture).toNat).reply (.station p) f rest
              ⟨.ok, be1 (match lifts.plan with | none => 0 | some ls => ls.length)⟩))))

/-- ABANDON: the refusals of R23 and R32; otherwise the gathering set leaves the queue as ABANDONED (R32, R33). -/
def Obligations.AbandonWithdrawsTheGatheringSet : Prop :=
  ∀ (s : State) (p : StationPort) (f : Frame) (rest : List Frame) (n : Nat), s.Taking (.station p) f rest →
    f.kind = kindAbandon → f.payload = be2 n → n < 65536 → (s.station p).role = .collator →
    (s.findSet n = none → exec (.abandon p) s = .next (s.reply (.station p) f rest
      (.bare (if s.tracker.lastOpened = some n then .state else .noSet)))) ∧
    (∀ x, s.findSet n = some x →
      (x.state ≠ .gathering → exec (.abandon p) s = .next (s.reply (.station p) f rest (.bare .state))) ∧
      (x.state = .gathering →
        exec (.abandon p) s = .next ((s.leave .abandon x).reply (.station p) f rest (.bare .ok))))

/-- The lift plan of a set covers each recorded sheet once in feed order, in 1 to 8 lifts; a lift holds at most K sheets with a
caliper sum of at most H, unless it is a single sheet above H with the overload flag, and it closes only because the next
sheet would exceed H or it holds K sheets (R47, R48, R50). The plan is absent exactly under LIFT_LIMIT, which is added only
when eight lifts so formed are closed and a sheet remains (R49); LIFT_OVERLOAD is added exactly when one of the lifts closed is
an overload lift (R48, R49, R51). -/
def Obligations.LiftPlanCoversEverySheet : Prop :=
  ∀ (r : Recipe) (sheets : List SheetEntry), 1 ≤ r.liftSheets → sheets ≠ [] →
    ((planLifts r sheets).plan = none ↔ (planLifts r sheets).limit = true) ∧
    (∀ ls, (planLifts r sheets).plan = some ls →
      1 ≤ ls.length ∧ ls.length ≤ 8 ∧ (ls.map (·.count)).sum = sheets.length ∧ PlannedLifts r sheets ls ∧
      ((planLifts r sheets).overload = true ↔ ∃ l ∈ ls, l.overload = true)) ∧
    ((planLifts r sheets).limit = true → ∃ ls, ls.length = 8 ∧ (ls.map (·.count)).sum < sheets.length ∧
      PlannedLifts r sheets ls ∧ ((planLifts r sheets).overload = true ↔ ∃ l ∈ ls, l.overload = true))

/-! ### Hole plans (chapter 4) -/

/-- The field range check passes exactly the recipes with every field in its range, fields 6 and 7 counting for style CUT
only and fields 8 and 9 for style DRILL only; a recipe that fails is answered with the first field that fails, in order of
group and identifier, and its group (R56). That the group is named by its place is the model's reading (log entry 17). -/
def Obligations.RangeCheckPassesFieldsInRange : Prop :=
  (∀ r : Recipe, rangeFailure r = none ↔
    (r.name.length = 12 ∧ (∀ c ∈ r.name, 0x20 ≤ c.toNat ∧ c.toNat ≤ 0x7E) ∧
      (5000 ≤ r.edge ∧ r.edge ≤ 60000) ∧ (400 ≤ r.pitch ∧ r.pitch ≤ 2000) ∧ (200 ≤ r.margin ∧ r.margin ≤ 5000) ∧
      r.styleCode ≤ 2 ∧ (r.styleCode = 1 → r.gapWidth ≤ 8000 ∧ r.gapClearance ≤ 1000) ∧
      (r.styleCode = 2 → r.drillX ≤ r.edge ∧ 300 ≤ r.drillY ∧ r.drillY ≤ 3000) ∧
      (300 ≤ r.liftCapacity ∧ r.liftCapacity ≤ 6000) ∧ (1 ≤ r.liftSheets ∧ r.liftSheets ≤ 32) ∧
      r.target ≤ 999999 ∧ (1 ≤ r.groupCount ∧ r.groupCount ≤ 8) ∧
      (∀ k g, r.groups[k]? = some g → g.number = k + 1 ∧ g.number ≤ 8 ∧ 1 ≤ g.count ∧ g.count ≤ 32 ∧
        40 ≤ g.nominal ∧ g.nominal ≤ 4000 ∧ g.tolerance ≤ 500))) ∧
  (∀ (r : Recipe) (e : FieldRef), rangeFailure r = some e ↔
    HasField r e.field e.group ∧ ¬FieldFits r e.field e.group ∧
      ∀ field group, HasField r field group → ExaminedBefore field group e.field e.group → FieldFits r field group)

/-- The plan computation with a die that R53 allows, or none. It ends with RANGE for a recipe out of range, otherwise with the
first plan error of R57 whose condition holds, and with a plan when none does. A computed plan has n = min(n0, D) holes,
CLAMPED when n0 is above D, both margins at least Mmin with the odd hundredth on the right, the guide position S within 0 to
Smax at the allowed first pin nearest to the centred one, the lower of two (R60 to R66). For style CUT the removed run is
exactly the holes that R68 removes, the two segments are the holes on either side of it, and the notch stands at
floor(L / 2) with width G; for the other styles one segment holds every hole, and DRILL has the recipe's drill position
(R68 to R72, R74). -/
def Obligations.HolePlanGeometry : Prop :=
  (∀ (r : Recipe) (die : Option Die) (table : PerStation Station), (∀ d, die = some d → d.Fits) →
    (∀ e, rangeFailure r = some e → computePlan r die table = .error (.range e)) ∧
    (rangeFailure r = none →
      (∀ e, PlanFails r die table e →
        (∀ before, planErrorByte before < planErrorByte e → ¬PlanFails r die table before) →
        computePlan r die table = .error (.plan e)) ∧
      ((∀ e, ¬PlanFails r die table e) → ∃ plan, computePlan r die table = .ok plan))) ∧
  (∀ (r : Recipe) (d : Die) (table : PerStation Station) (plan : HolePlan), d.Fits →
    computePlan r (some d) table = .ok plan →
    let offCentre := fun k : Nat => ((k : Int) - ((d.pins - plan.holes) / 2 : Nat)).natAbs
    2 * r.margin < r.edge ∧ r.pitch = d.pitch ∧ 2 ≤ rowNatural r ∧ plan.holes = rowHoles r d ∧
    plan.clamped = decide (d.pins < rowNatural r) ∧
    (plan.holes - 1) * r.pitch ≤ r.edge ∧ plan.leftMargin = rowMargin r d ∧
    plan.rightMargin = r.edge - (plan.holes - 1) * r.pitch - plan.leftMargin ∧ r.margin ≤ plan.leftMargin ∧
    AllowedPin r d plan.firstPin ∧ (plan.guide : Int) = rowGuide r d plan.firstPin ∧
    (∀ k, AllowedPin r d k → offCentre plan.firstPin ≤ offCentre k ∧
      (offCentre k = offCentre plan.firstPin → plan.firstPin ≤ k)) ∧
    (r.styleCode = 1 → ∃ first count, plan.removed = some (first, count) ∧ 1 ≤ count ∧
      (∀ i, RemovedHole r d i ↔ first ≤ i ∧ i < first + count) ∧
      2 ≤ first ∧ first + count + 2 ≤ plan.holes ∧
      plan.segments = [⟨rowHole r d 0, first⟩, ⟨rowHole r d (first + count), plan.holes - (first + count)⟩] ∧
      plan.notch = some (r.edge / 2, r.gapWidth) ∧ plan.drill = none) ∧
    (r.styleCode ≠ 1 → plan.removed = none ∧ plan.segments = [⟨rowHole r d 0, plan.holes⟩] ∧ plan.notch = none ∧
      plan.drill = if r.styleCode = 2 then some (r.drillX, r.drillY) else none))

/-- In every plan computed with a die that R53 allows the engaged pins are as many as the loops of the segments, every
segment has at least 2 loops, the map has one entry for each pin, and pin k0 + i is engaged exactly for a hole i that is not
in the removed run (R72, R73). -/
def Obligations.HolePlanEngagesOnePinForEachLoop : Prop :=
  ∀ (r : Recipe) (d : Die) (table : PerStation Station) (plan : HolePlan), d.Fits →
    computePlan r (some d) table = .ok plan →
    (plan.pins.filter id).length = (plan.segments.map (·.loops)).sum ∧
    (∀ g ∈ plan.segments, 2 ≤ g.loops) ∧ plan.pins.length = d.pins ∧
    (∀ k, k < d.pins → (plan.pins[k]? = some true ↔
      ∃ i, i < plan.holes ∧ k = plan.firstPin + i ∧
        ∀ first count, plan.removed = some (first, count) → i < first ∨ first + count ≤ i))

/-! ### The stations (chapters 6, 7, 8) -/

/-- The chosen set of an edge is the candidate nearest to its expected edge, the oldest of equally near ones; there is none
exactly when no record is a candidate (R105, R106). -/
def Obligations.ChosenSetIsTheNearestCandidate : Prop :=
  ∀ (queue : List SetRecord) (e : Station) (r : StationRole) (p : Position),
    (chosenSet queue e r p = none ↔ ∀ x ∈ queue, ∀ d, ¬IsCandidate e r p x d) ∧
    (∀ x, chosenSet queue e r p = some x → ∃ k d : Nat, queue[k]? = some x ∧ IsCandidate e r p x d ∧
      ∀ m y d', queue[m]? = some y → IsCandidate e r p y d' → d ≤ d' ∧ (m < k → d < d'))

/-- EDGE matched to a set: the port's miss count is cleared; a PASSING entry becomes PASSED and is answered PASS; a WAITING one
gets its role's work record from the set's own plan slot: PUNCH, or SKIP under LIFT_OVERLOAD or LIFT_LIMIT; NOTCH; DRILL; BIND
when the punch is DONE, otherwise WITHHOLD with BIND_FAULT; GATE with the commanded outlet, which the record keeps. The edge
lies at the capture position less the lag (R15, R104, R106, R109 to R115, R130). -/
def Obligations.EdgeIsMatched : Prop :=
  ∀ (s : State) (p : StationPort) (f : Frame) (rest : List Frame) (lag : Nat) (r : StationRole) (x : SetRecord),
    s.Taking (.station p) f rest → f.kind = kindEdge → f.payload = be1 lag → lag < 256 →
    (s.station p).role = .station r →
    chosenSet s.tracker.queue (s.station p) r (f.capture - BitVec.ofNat 32 lag) = some x →
    let cleared : State := { s with tracker := { s.tracker with missCounts := s.tracker.missCounts.set p 0 } }
    let becomes := fun y : SetRecord => cleared.updateSet x.number fun _ => y
    let plan := s.slotPlan x.slot
    let recipe := s.slotRecipe x.slot
    (x.progress.get r = some .passing → exec (.edge p) s =
      .next ((cleared.updateSet x.number fun y => y.setProgress r .passed).reply (.station p) f rest
        ⟨.pass, be2 x.number⟩)) ∧
    (x.progress.get r = some .waiting →
      (r = .punch → (x.checks.liftOverload = true ∨ x.checks.liftLimit = true) → exec (.edge p) s =
        .next ((becomes { x with progress := { x.progress with punch := some .skipped } }).reply (.station p) f rest
          ⟨.ok, be1 2 ++ be2 x.number⟩)) ∧
      (r = .punch → x.checks.liftOverload = false → x.checks.liftLimit = false → ∀ lifts, x.liftPlan = some lifts →
        exec (.edge p) s =
          .next ((becomes { x with progress := { x.progress with punch := some .atStation } }).reply (.station p) f rest
            ⟨.ok, be1 1 ++ be2 x.number ++ (be2 plan.guide ++ be1 plan.pins.length ++ pinBytes plan.pins ++
              be1 lifts.length ++ lifts.flatMap fun l => be1 l.first ++ be1 l.count ++ be2 l.sum)⟩)) ∧
      (r = .notch → ∀ position width, plan.notch = some (position, width) → exec (.edge p) s =
        .next ((becomes { x with progress := { x.progress with notch := some .atStation } }).reply (.station p) f rest
          ⟨.ok, be1 3 ++ be2 x.number ++ (be2 position ++ be2 width)⟩)) ∧
      (r = .drill → ∀ dx dy, plan.drill = some (dx, dy) → exec (.edge p) s =
        .next ((becomes { x with progress := { x.progress with drill := some .atStation } }).reply (.station p) f rest
          ⟨.ok, be1 4 ++ be2 x.number ++ (be2 dx ++ be2 dy)⟩)) ∧
      (r = .binder → (∃ o, x.progress.punch = some (.done o)) → exec (.edge p) s =
        .next ((becomes { x with progress := { x.progress with binder := some .atStation } }).reply (.station p) f rest
          ⟨.ok, be1 5 ++ be2 x.number ++ (segmentListBytes plan.segments ++
            be1 (if recipe.styleCode = 1 then 1 else 0))⟩)) ∧
      (r = .binder → (∀ o, x.progress.punch ≠ some (.done o)) → exec (.edge p) s =
        .next ((becomes { x with
          progress := { x.progress with binder := some .withheld }
          checks := { x.checks with bindFault := true } }).reply (.station p) f rest
            ⟨.ok, be1 6 ++ be2 x.number⟩)) ∧
      (r = .gate →
        let o := commandedOutlet s.verdict.rules x.checks
        exec (.edge p) s =
          .next ((becomes { x with
            progress := { x.progress with gate := some .atStation }
            commanded := some o }).reply (.station p) f rest ⟨.ok, be1 7 ++ be2 x.number ++ be1 (gateOutletByte o)⟩)))

/-- EDGE that finds no candidate: UNMATCHED, with the outlet REJECT at the gate, and the port's UNMATCHED_EDGE flag; nothing
else changes but ATTN (R107, R170). -/
def Obligations.EdgeWithoutCandidateIsUnmatched : Prop :=
  ∀ (s : State) (p : StationPort) (f : Frame) (rest : List Frame) (lag : Nat) (r : StationRole),
    s.Taking (.station p) f rest → f.kind = kindEdge → f.payload = be1 lag → lag < 256 →
    (s.station p).role = .station r →
    chosenSet s.tracker.queue (s.station p) r (f.capture - BitVec.ofNat 32 lag) = none →
    exec (.edge p) s = .next ((s.updatePort (.station p) fun q => { q with unmatchedEdge := true }).reply (.station p) f
      rest ⟨.unmatched, be1 (if r = .gate then 2 else 0)⟩)

/-- Reports are refused in the order of R117 and R118: RANGE field 2 for a FAULT code of 0 or a DIVERTED outlet that is none;
NO_SET; ROLE; NOT_ARRIVED; LATE; DUPLICATE. None of these answers changes anything. -/
def Obligations.ReportsAreTestedInOrder : Prop :=
  ∀ (s : State) (p : StationPort) (c : Instr) (f : Frame) (rest : List Frame) (n : Nat) (more : List Byte),
    s.Taking (.station p) f rest → c ∈ [Instr.lift p, Instr.done p, Instr.fault p, Instr.diverted p] →
    requestOf c = some (.station p, f.kind) → f.payload = be2 n ++ more → n < 65536 →
    lengthFits f.kind f.payload = true →
    let outOfRange := (f.kind = kindFault ∧ more = be1 0) ∨
      (f.kind = kindDiverted ∧ more ≠ be1 1 ∧ more ≠ be1 2 ∧ more ≠ be1 3)
    (outOfRange → exec c s = .next (s.reply (.station p) f rest (.range 2 0))) ∧
    (¬outOfRange →
      (s.findSet n = none → exec c s = .next (s.reply (.station p) f rest ⟨.noSet, be2 n⟩)) ∧
      (∀ x, s.findSet n = some x →
        ((∀ r, (s.station p).role = .station r → ¬ReportValid f.kind r) →
          exec c s = .next (s.reply (.station p) f rest ⟨.role, be2 n⟩)) ∧
        (∀ r, (s.station p).role = .station r → ReportValid f.kind r →
          ((x.progress.get r = some .waiting ∨ x.progress.get r = some .passing) →
            exec c s = .next (s.reply (.station p) f rest ⟨.notArrived, be2 n⟩)) ∧
          (x.progress.get r = some .unconfirmed →
            exec c s = .next (s.reply (.station p) f rest ⟨.late, be2 n⟩)) ∧
          (((∃ o, x.progress.get r = some (.done o)) ∨ (∃ k, x.progress.get r = some (.fault k)) ∨
              x.progress.get r = some .skipped ∨ x.progress.get r = some .withheld ∨
              x.progress.get r = some .passed ∨ x.progress.get r = some .missed) →
            exec c s = .next (s.reply (.station p) f rest ⟨.duplicate, be2 n⟩)))))

/-- LIFT from the punch while it is AT_STATION: ORDER with lifts done for an index other than lifts done; otherwise lifts done
rises by one, the last lift of the plan makes the entry DONE, and the answer is OK with the new lifts done (R119). -/
def Obligations.LiftsAreCountedInOrder : Prop :=
  ∀ (s : State) (p : StationPort) (f : Frame) (rest : List Frame) (n index : Nat) (x : SetRecord) (lifts : List Lift),
    s.Taking (.station p) f rest → f.kind = kindLift → f.payload = be2 n ++ be1 index → n < 65536 → index < 256 →
    (s.station p).role = .station .punch → s.findSet n = some x → x.progress.punch = some .atStation →
    x.liftPlan = some lifts →
    (index ≠ x.liftsDone →
      exec (.lift p) s = .next (s.reply (.station p) f rest ⟨.order, be2 n ++ be1 x.liftsDone⟩)) ∧
    (index = x.liftsDone →
      exec (.lift p) s = .next ((s.updateSet n fun y => { y with
        liftsDone := y.liftsDone + 1
        progress := if some (y.liftsDone + 1) = y.liftPlan.map List.length then
          { y.progress with punch := some (.done none) } else y.progress }).reply (.station p) f rest
            ⟨.ok, be2 n ++ be1 (x.liftsDone + 1)⟩))

/-- DONE from the notch unit, the drill or the binder, and FAULT from those or the punch, while the station is AT_STATION: the
entry becomes DONE, or FAULT with its code and the role's check in the word; the answer is OK (R117, R120, R121). -/
def Obligations.DoneAndFaultFinishTheWork : Prop :=
  (∀ (s : State) (p : StationPort) (f : Frame) (rest : List Frame) (n : Nat) (r : StationRole) (x : SetRecord),
    s.Taking (.station p) f rest → f.kind = kindDone → f.payload = be2 n → n < 65536 →
    (s.station p).role = .station r → (r = .notch ∨ r = .drill ∨ r = .binder) →
    s.findSet n = some x → x.progress.get r = some .atStation →
    exec (.done p) s = .next ((s.updateSet n fun y => y.setProgress r (.done none)).reply (.station p) f rest
      ⟨.ok, be2 n⟩)) ∧
  (∀ (s : State) (p : StationPort) (f : Frame) (rest : List Frame) (n code : Nat) (r : StationRole) (x : SetRecord),
    s.Taking (.station p) f rest → f.kind = kindFault → f.payload = be2 n ++ be1 code → n < 65536 →
    0 < code → code < 256 → (s.station p).role = .station r → r ≠ .gate →
    s.findSet n = some x → x.progress.get r = some .atStation →
    let check : Check := if r = .punch then .punchFault else if r = .binder then .bindFault else .finishFault
    exec (.fault p) s = .next ((s.updateSet n fun y => (y.setProgress r (.fault code)).addCheck check).reply
      (.station p) f rest ⟨.ok, be2 n⟩))

/-- DIVERTED from the gate while it is AT_STATION: the entry becomes DONE with the outlet, which is the record's taken outlet; one
that differs from the commanded outlet hands GATE_MISMATCH to line control; the answer is OK (R131). -/
def Obligations.DivertedRecordsTheTakenOutlet : Prop :=
  ∀ (s : State) (p : StationPort) (f : Frame) (rest : List Frame) (n : Nat) (o commanded : GateOutlet) (x : SetRecord),
    s.Taking (.station p) f rest → f.kind = kindDiverted → f.payload = be2 n ++ be1 (gateOutletByte o) → n < 65536 →
    (s.station p).role = .station .gate → s.findSet n = some x → x.progress.gate = some .atStation →
    x.commanded = some commanded →
    let t := s.updateSet n fun y =>
      { y with progress := { y.progress with gate := some (.done (some o)) }, taken := some o }
    (o = commanded → exec (.diverted p) s = .next (t.reply (.station p) f rest ⟨.ok, be2 n⟩)) ∧
    (o ≠ commanded →
      exec (.diverted p) s = .next ((t.handCause .gateMismatch).reply (.station p) f rest ⟨.ok, be2 n⟩))

/-- The commanded outlet: ACCEPT for an empty word; otherwise the outlet of the first rule that matches, and REJECT when none
does (R129). -/
def Obligations.CommandedOutletIsTheFirstMatch : Prop :=
  ∀ (rules : List VerdictRule) (w : CheckWord),
    ((∀ c, w.has c = false) → commandedOutlet rules w = .accept) ∧
    ((∃ c, w.has c = true) →
      (∀ before r after, rules = before ++ r :: after → (∀ q ∈ before, ¬RuleMatches q w) → RuleMatches r w →
        commandedOutlet rules w = r.outlet) ∧
      ((∀ q ∈ rules, ¬RuleMatches q w) → commandedOutlet rules w = .reject))

/-! ### Laws that every step keeps -/

/-- The state after reset keeps every law. -/
def Obligations.ResetStateIsLawful : Prop := State.reset.Lawful

/-- No buffer and no answer queue ever holds more than 4 (R165, R166), and the history holds at most 32 entries with
consecutive exit numbers up to the one before X (R138). -/
def Obligations.StepKeepsPortsAndHistory : Prop :=
  (∀ s t : State, s.PortLaw → step s = .next t → t.PortLaw) ∧
  (∀ s t : State, s.HistoryLaw → step s = .next t → t.HistoryLaw)

/-- The tracking queue holds at most 16 records with distinct numbers, of which only the last may gather; in UNCONFIGURED and
IDLE it is empty and no slot runs; a slot's count is the number of its records and a DRAINING slot has some; no two slots are
STAGED, CURRENT or DRAINING together (R16, R18, R78, R86, R88, R145). -/
def Obligations.StepKeepsQueueAndSlots : Prop :=
  ∀ s t : State, s.SlotLaw → step s = .next t → t.SlotLaw

/-- With the laws of queue and slots: opened is the sum of the other five counters and the sets in the queue, modulo 2^32
(R86), and accepted plus sets in the queue never exceed a target (R87). -/
def Obligations.StepKeepsCountersAndQuota : Prop :=
  (∀ s t : State, s.SlotLaw → s.CounterLaw → step s = .next t → t.CounterLaw) ∧
  (∀ s t : State, s.SlotLaw → s.QuotaLaw → step s = .next t → t.QuotaLaw)

/-- The reject-run count stays below its limit (R136); outside UNCONFIGURED the configuration is valid (R97); miss counts stay
below 3 and the divider tally below its setting (R2, R100); the die record lies within its ranges (R53); LSTOP is asserted exactly in HALT, ATTN follows its conditions, and
outside HALT no cause is held (R144, R151, R152). -/
def Obligations.StepKeepsLineAndLimits : Prop :=
  (∀ s t : State, s.RunLaw → step s = .next t → t.RunLaw) ∧
  (∀ s t : State, s.ConfigLaw → step s = .next t → t.ConfigLaw) ∧
  (∀ s t : State, s.TallyLaw → step s = .next t → t.TallyLaw) ∧
  (∀ s t : State, s.DieLaw → step s = .next t → t.DieLaw) ∧
  (∀ s t : State, s.OutputLaw → step s = .next t → t.OutputLaw)
end

