-- ==== Sys2Proof/Laws/HolePlan.lean ====
section
/-! SUPPORT. What the first failing check and the removed run are, said once (R56, R68). -/

namespace Sys2Proof.Machine

/-- The checks of a list pass in order: the answer is the entry that fails while every entry before it passes. -/
theorem firstFailure_eq_some_iff {checks : List (Bool × FieldRef)} {fits : FieldRef → Prop}
    {before : FieldRef → FieldRef → Prop} (asymm : ∀ a b, before a b → ¬before b a)
    (reads : ∀ c ∈ checks, c.1 = true ↔ fits c.2) (ordered : checks.Pairwise fun a b => before a.2 b.2) (e : FieldRef) :
    firstFailure checks = some e ↔
      e ∈ checks.map Prod.snd ∧ ¬fits e ∧ ∀ f ∈ checks.map Prod.snd, before f e → fits f := by
  induction checks with
  | nil => simp [firstFailure]
  | cons c rest ih =>
    obtain ⟨ok, f⟩ := c
    have head := reads (ok, f) List.mem_cons_self
    rw [List.pairwise_cons] at ordered
    have ih := ih (fun c m => reads c (List.mem_cons_of_mem _ m)) ordered.2
    cases ok with
    | false =>
      have bad : ¬fits f := fun h => by simpa using head.2 h
      simp only [firstFailure, Bool.false_eq_true, if_false, Option.some.injEq]
      constructor
      · rintro rfl
        refine ⟨by simp, bad, fun g m hb => ?_⟩
        simp only [List.map_cons, List.mem_cons] at m
        rcases m with rfl | m
        · exact absurd hb (asymm _ _ hb)
        · obtain ⟨c, hc, rfl⟩ := List.mem_map.1 m
          exact absurd hb (asymm _ _ (ordered.1 c hc))
      · rintro ⟨m, _, hall⟩
        simp only [List.map_cons, List.mem_cons] at m
        rcases m with rfl | m
        · rfl
        · obtain ⟨c, hc, rfl⟩ := List.mem_map.1 m
          exact absurd (hall f (by simp) (ordered.1 c hc)) bad
    | true =>
      have good : fits f := head.1 rfl
      simp only [firstFailure, if_true, ih, List.map_cons, List.mem_cons]
      constructor
      · rintro ⟨m, hn, hall⟩
        exact ⟨.inr m, hn, fun g mg hb => by
          rcases mg with rfl | mg
          · exact good
          · exact hall g mg hb⟩
      · rintro ⟨m, hn, hall⟩
        refine ⟨?_, hn, fun g mg => hall g (.inr mg)⟩
        rcases m with rfl | m
        · exact absurd good hn
        · exact m

/-- Every check passes exactly when none fails. -/
theorem firstFailure_eq_none_iff (checks : List (Bool × FieldRef)) :
    firstFailure checks = none ↔ ∀ c ∈ checks, c.1 = true := by
  induction checks with
  | nil => simp [firstFailure]
  | cons c rest ih =>
    obtain ⟨ok, f⟩ := c
    cases ok <;> simp [firstFailure, ih]

/-- The doubled distance from the middle falls and then rises, so a hole between two removed ones is removed (R68). -/
theorem holeRemoved_between {r : Recipe} {n i j k : Nat} (hij : i ≤ j) (hjk : j ≤ k) (hi : holeRemoved r n i = true)
    (hk : holeRemoved r n k = true) : holeRemoved r n j = true := by
  unfold holeRemoved holePosition at *
  rw [decide_eq_true_eq] at *
  have h1 : (i : Int) * r.pitch ≤ j * r.pitch := Int.mul_le_mul_of_nonneg_right (by omega) (by omega)
  have h2 : (j : Int) * r.pitch ≤ k * r.pitch := Int.mul_le_mul_of_nonneg_right (by omega) (by omega)
  omega

/-- What a test that holds without gaps selects from `0` to `n - 1` is an unbroken run. -/
theorem filter_range_eq_run {test : Nat → Bool} {n first : Nat} {rest : List Nat}
    (between : ∀ i j k, i ≤ j → j ≤ k → test i = true → test k = true → test j = true)
    (h : (List.range n).filter test = first :: rest) :
    first + (rest.length + 1) ≤ n ∧ ∀ i, (i < n ∧ test i = true) ↔ (first ≤ i ∧ i < first + (rest.length + 1)) := by
  induction n generalizing rest with
  | zero => simp at h
  | succ n ih =>
    rw [List.range_succ, List.filter_append] at h
    cases hn : test n with
    | false =>
      simp only [hn, List.filter_cons, List.filter_nil, Bool.false_eq_true, if_false, List.append_nil] at h
      obtain ⟨hle, hiff⟩ := ih h
      refine ⟨by omega, fun i => ?_⟩
      rw [← hiff i]
      constructor
      · rintro ⟨hi, ht⟩
        refine ⟨?_, ht⟩
        rcases Nat.lt_succ_iff_lt_or_eq.1 hi with hi | rfl
        · exact hi
        · rw [hn] at ht
          exact absurd ht (by simp)
      · rintro ⟨hi, ht⟩
        exact ⟨by omega, ht⟩
    | true =>
      simp only [hn, List.filter_cons, List.filter_nil, if_true] at h
      cases hf : (List.range n).filter test with
      | nil =>
        rw [hf] at h
        simp only [List.nil_append, List.cons.injEq] at h
        obtain ⟨rfl, rfl⟩ := h
        refine ⟨by simp, fun i => ?_⟩
        have none_before : ∀ i < n, test i = false := by
          intro i hi
          have := List.filter_eq_nil_iff.1 hf i (by simpa using hi)
          simpa using this
        constructor
        · rintro ⟨hi, ht⟩
          rcases Nat.lt_succ_iff_lt_or_eq.1 hi with hi | rfl
          · rw [none_before i hi] at ht
            exact absurd ht (by simp)
          · simp
        · rintro ⟨h1, h2⟩
          obtain rfl : i = n := by simp at h2; omega
          exact ⟨by omega, hn⟩
      | cons a as =>
        rw [hf] at h
        simp only [List.cons_append, List.cons.injEq] at h
        obtain ⟨rfl, rfl⟩ := h
        obtain ⟨hle, hiff⟩ := ih hf
        have hlast := (hiff (a + as.length)).2 (by omega)
        have reach : a + (as.length + 1) = n := by
          rcases Nat.lt_or_ge (a + (as.length + 1)) n with hlt | hge
          · have := between (a + as.length) (a + (as.length + 1)) n (by omega) (by omega) hlast.2 hn
            have := (hiff (a + (as.length + 1))).1 ⟨hlt, this⟩
            omega
          · omega
        refine ⟨by simp; omega, fun i => ?_⟩
        simp only [List.length_append, List.length_singleton]
        constructor
        · rintro ⟨hi, ht⟩
          rcases Nat.lt_succ_iff_lt_or_eq.1 hi with hi | rfl
          · have := (hiff i).1 ⟨hi, ht⟩
            omega
          · omega
        · rintro ⟨h1, h2⟩
          rcases Nat.lt_or_ge i n with hi | hi
          · exact ⟨by omega, ((hiff i).2 (by omega)).2⟩
          · obtain rfl : i = n := by omega
            exact ⟨by omega, hn⟩

/-- The removed run is exactly the holes that R68 removes. -/
theorem removedRun_eq_some {r : Recipe} {n first count : Nat} (h : removedRun r n = some (first, count)) :
    1 ≤ count ∧ first + count ≤ n ∧
      ∀ i, (i < n ∧ holeRemoved r n i = true) ↔ (first ≤ i ∧ i < first + count) := by
  unfold removedRun at h
  split at h
  · exact absurd h (by simp)
  · rename_i i rest hf
    simp only [Option.some.injEq, Prod.mk.injEq] at h
    obtain ⟨rfl, rfl⟩ := h
    obtain ⟨h1, h2⟩ := filter_range_eq_run (fun _ _ _ => holeRemoved_between) hf
    exact ⟨by omega, h1, h2⟩

/-- With no removed run, no hole of the row is removed. -/
theorem removedRun_eq_none_iff (r : Recipe) (n : Nat) :
    removedRun r n = none ↔ ∀ i < n, holeRemoved r n i = false := by
  unfold removedRun
  split
  · rename_i hf
    simpa [List.filter_eq_nil_iff] using hf
  · rename_i i rest hf
    have : i ∈ (List.range n).filter (holeRemoved r n) := by simp [hf]
    simp only [List.mem_filter, List.mem_range] at this
    simp only [reduceCtorEq, false_iff]
    intro h
    simpa [h i this.1] using this.2

/-! ### The row in whole numbers

The model computes the row in integers (R57); where the usable length is positive every quantity of the row is the natural
number that `Sys2Proof/Safety.lean` writes for it. -/

theorem naturalHoles_eq {r : Recipe} (usable : 2 * r.margin < r.edge) : naturalHoles r = (rowNatural r : Int) := by
  simp only [naturalHoles, usableLength, floorDiv, rowNatural]
  rw [show (r.edge : Int) - 2 * r.margin = ((r.edge - 2 * r.margin : Nat) : Int) by omega]
  rfl

theorem holeCount_eq {r : Recipe} (d : Die) (usable : 2 * r.margin < r.edge) : holeCount r d = rowHoles r d := by
  simp only [holeCount, rowHoles, naturalHoles_eq usable]
  omega

theorem rowSpan_le (r : Recipe) (d : Die) : (rowHoles r d - 1) * r.pitch ≤ r.edge - 2 * r.margin := by
  have few : rowHoles r d ≤ (r.edge - 2 * r.margin) / r.pitch + 1 := Nat.min_le_left ..
  refine Nat.le_trans (Nat.mul_le_mul_right _ ?_) (Nat.div_mul_le_self _ r.pitch)
  generalize (r.edge - 2 * r.margin) / r.pitch = q at *
  omega

theorem span_eq {r : Recipe} {d : Die} (some_hole : 1 ≤ rowHoles r d) :
    span r (rowHoles r d) = (((rowHoles r d - 1) * r.pitch : Nat) : Int) := by
  rw [span, Int.natCast_mul, Int.natCast_sub some_hole]
  rfl

theorem leftMargin_eq {r : Recipe} {d : Die} (usable : 2 * r.margin < r.edge) (some_hole : 1 ≤ rowHoles r d) :
    leftMargin r (rowHoles r d) = (rowMargin r d : Int) := by
  have := rowSpan_le r d
  simp only [leftMargin, floorDiv, rowMargin, span_eq some_hole]
  omega

theorem holePosition_eq {r : Recipe} {d : Die} (usable : 2 * r.margin < r.edge) (some_hole : 1 ≤ rowHoles r d) (i : Nat) :
    holePosition r (rowHoles r d) i = (rowHole r d i : Int) := by
  simp only [holePosition, leftMargin_eq usable some_hole, rowHole]
  omega

theorem removedHole_iff {r : Recipe} {d : Die} (usable : 2 * r.margin < r.edge) (some_hole : 1 ≤ rowHoles r d) (i : Nat) :
    RemovedHole r d i ↔ i < rowHoles r d ∧ holeRemoved r (rowHoles r d) i = true := by
  unfold RemovedHole holeRemoved
  rw [holePosition_eq usable some_hole, decide_eq_true_eq]

/-- The allowed first pins are those between the lowest and the highest (R65). -/
theorem allowedPin_iff {r : Recipe} {d : Die} (usable : 2 * r.margin < r.edge) (some_hole : 1 ≤ rowHoles r d)
    (pitch : 0 < r.pitch) (k : Nat) :
    AllowedPin r d k ↔ lowestPin r d (rowHoles r d) ≤ k ∧ (k : Int) ≤ highestPin r d (rowHoles r d) := by
  simp only [AllowedPin, rowGuide, lowestPin, highestPin, leftMargin_eq usable some_hole, ceilDiv, floorDiv]
  have positive : (0 : Int) < r.pitch := by omega
  have low := Int.le_ediv_iff_mul_le (a := -(k : Int)) (b := -((rowMargin r d : Int) - d.offset)) positive
  have high := Int.le_ediv_iff_mul_le (a := (k : Int)) (b := (d.travel : Int) - d.offset + rowMargin r d) positive
  rw [Int.neg_mul] at low
  omega

/-- The first pin is allowed and the nearest to the centred one, the lower of two (R66). -/
theorem firstPin_nearest {r : Recipe} {d : Die} {n : Nat} {k0 : Int} (fits : n ≤ d.pins)
    (h : firstPin r d n = some k0) :
    lowestPin r d n ≤ k0 ∧ k0 ≤ highestPin r d n ∧ 0 ≤ k0 ∧
      ∀ k, lowestPin r d n ≤ k → k ≤ highestPin r d n →
        (k0 - ((d.pins - n) / 2 : Nat)).natAbs ≤ (k - ((d.pins - n) / 2 : Nat)).natAbs ∧
        ((k - ((d.pins - n) / 2 : Nat)).natAbs = (k0 - ((d.pins - n) / 2 : Nat)).natAbs → k0 ≤ k) := by
  have low : 0 ≤ lowestPin r d n := by
    simp only [lowestPin]
    omega
  have centred : floorDiv ((d.pins : Int) - n) 2 = ((d.pins - n) / 2 : Nat) := by
    simp only [floorDiv]
    omega
  simp only [firstPin, centred] at h
  generalize lowestPin r d n = lo at *
  generalize highestPin r d n = hi at *
  split at h
  · exact absurd h (by simp)
  · split at h
    · simp only [Option.some.injEq] at h
      subst h
      exact ⟨by omega, by omega, by omega, fun k _ _ => by omega⟩
    · split at h <;>
      · simp only [Option.some.injEq] at h
        subst h
        exact ⟨by omega, by omega, by omega, fun k _ _ => by omega⟩

/-- There is no first pin exactly when no pin is allowed (R65). -/
theorem firstPin_eq_none_iff (r : Recipe) (d : Die) (n : Nat) :
    firstPin r d n = none ↔ highestPin r d n < lowestPin r d n := by
  simp only [firstPin]
  split
  · simp_all
  · split
    · simp_all
    · split <;> simp_all

theorem rolePresent_eq_false_iff (t : PerStation Station) (r : StationRole) :
    rolePresent t r = false ↔ ∀ p, (t.get p).role ≠ .station r := by
  simp only [rolePresent, portsWith, Bool.not_eq_false', List.isEmpty_iff, List.filter_eq_nil_iff, decide_eq_true_eq]
  exact ⟨fun h p => h p (by cases p <;> simp [stationPorts]), fun h p _ => h p⟩

/-- The style byte of a recipe tells its style. -/
theorem style_iff (r : Recipe) : (r.style = .cut ↔ r.styleCode = 1) ∧ (r.style = .drill ↔ r.styleCode = 2) := by
  simp only [Recipe.style]
  split <;> simp_all

end Sys2Proof.Machine
end

