-- ==== Sys2Proof/Laws/Lifts.lean ====
section
/-! SUPPORT. What the lift planner's walk can do, said once (R47 to R49). -/

namespace Sys2Proof.Machine

/-- The sheets that some lifts hold. -/
def liftTotal (ls : List Lift) : Nat := (ls.map (·.count)).sum

@[simp] theorem liftTotal_append (ls : List Lift) (l : Lift) : liftTotal (ls ++ [l]) = liftTotal ls + l.count := by
  simp [liftTotal]

/-- A lift that goes on where planned lifts end, and is itself planned, extends them. -/
theorem PlannedLifts.append {r : Recipe} {sheets : List SheetEntry} {ls : List Lift} {l : Lift}
    (h : PlannedLifts r sheets ls) (first : l.first = liftTotal ls) (fits : l.first + l.count ≤ sheets.length)
    (sum : l.sum = (((sheets.drop l.first).take l.count).map (·.planning)).sum)
    (heavy : l.overload = true → l.count = 1 ∧ r.liftCapacity < l.sum)
    (within : l.overload = false → 1 ≤ l.count ∧ l.count ≤ r.liftSheets ∧ l.sum ≤ r.liftCapacity ∧
      ∀ e, sheets[l.first + l.count]? = some e → r.liftCapacity < l.sum + e.planning ∨ l.count = r.liftSheets) :
    PlannedLifts r sheets (ls ++ [l]) := by
  intro k m hm
  rcases Nat.lt_trichotomy k ls.length with hk | hk | hk
  · rw [List.getElem?_append_left hk] at hm
    rw [List.take_append_of_le_length (Nat.le_of_lt hk)]
    exact h k m hm
  · subst hk
    simp only [List.getElem?_concat_length, Option.some.injEq] at hm
    subst hm
    rw [List.take_left]
    exact ⟨first, fits, sum, heavy, within⟩
  · rw [List.getElem?_eq_none (by simp; omega)] at hm
    exact absurd hm (by simp)

/-- The lift that the planner has open: an ordinary one, within H and K, that ends where the walk stands. -/
structure OpenLift (r : Recipe) (sheets : List SheetEntry) (closed : List Lift) (stand : Nat) (l : Lift) : Prop where
  first : l.first = liftTotal closed
  reach : l.first + l.count = stand
  ordinary : l.overload = false
  nonempty : 1 ≤ l.count
  fewer : l.count ≤ r.liftSheets
  within : l.sum ≤ r.liftCapacity
  sum : l.sum = (((sheets.drop l.first).take l.count).map (·.planning)).sum

/-- One sheet more in a stretch of sheets adds its planning caliper. -/
theorem planningSum_succ {sheets : List SheetEntry} {first count : Nat} {x : SheetEntry}
    (h : sheets[first + count]? = some x) :
    (((sheets.drop first).take (count + 1)).map (·.planning)).sum =
      (((sheets.drop first).take count).map (·.planning)).sum + x.planning := by
  rw [List.take_add_one, List.getElem?_drop, h]
  simp

/-- What the walk answers: planned lifts that cover every sheet, at most eight; or eight that leave a sheet. -/
def WalkEnd (r : Recipe) (sheets : List SheetEntry) (w : PlanWalk) : Prop :=
  PlannedLifts r sheets w.lifts ∧
    ((w.limit = false ∧ w.lifts.length ≤ 8 ∧ liftTotal w.lifts = sheets.length) ∨
      (w.limit = true ∧ w.lifts.length = 8 ∧ liftTotal w.lifts < sheets.length))

/-- Closing the open lift keeps the lifts planned, when the next sheet does not join or none is left. -/
theorem OpenLift.closed {r : Recipe} {sheets : List SheetEntry} {closed : List Lift} {stand : Nat} {l : Lift}
    (o : OpenLift r sheets closed stand l) (h : PlannedLifts r sheets closed) (hstand : stand ≤ sheets.length)
    (stop : ∀ e, sheets[stand]? = some e → r.liftCapacity < l.sum + e.planning ∨ l.count = r.liftSheets) :
    PlannedLifts r sheets (closed ++ [l]) :=
  h.append o.first (o.reach ▸ hstand) o.sum (fun t => absurd t (by simp [o.ordinary]))
    fun _ => ⟨o.nonempty, o.fewer, o.within, o.reach ▸ stop⟩

/-- The walk over the sheets `xs` ends well from every place it can stand: with a lift open, or with none. -/
def WalkFrom (r : Recipe) (sheets xs : List SheetEntry) : Prop :=
  (∀ (pre : List SheetEntry) (l : Lift) (closed : List Lift), sheets = pre ++ xs → PlannedLifts r sheets closed →
    closed.length < 8 → OpenLift r sheets closed pre.length l →
    WalkEnd r sheets (walkLifts r.liftCapacity r.liftSheets (xs.map (·.planning)) pre.length (some l) closed)) ∧
  (∀ (pre : List SheetEntry) (closed : List Lift), sheets = pre ++ xs → PlannedLifts r sheets closed →
    closed.length ≤ 8 → liftTotal closed = pre.length →
    WalkEnd r sheets (walkLifts r.liftCapacity r.liftSheets (xs.map (·.planning)) pre.length none closed))

/-- A lift begins at a sheet, with room for one. -/
theorem WalkFrom.begin {r : Recipe} (hk : 1 ≤ r.liftSheets) {sheets xs : List SheetEntry} (h : WalkFrom r sheets xs)
    {pre : List SheetEntry} {x : SheetEntry} {closed : List Lift} (hs : sheets = pre ++ x :: xs)
    (hc : PlannedLifts r sheets closed) (hl : closed.length < 8) (total : liftTotal closed = pre.length) :
    WalkEnd r sheets (walkLifts r.liftCapacity r.liftSheets (xs.map (·.planning)) (pre.length + 1)
      (beginLift r.liftCapacity pre.length x.planning closed).1
      (beginLift r.liftCapacity pre.length x.planning closed).2) := by
  have hs' : sheets = (pre ++ [x]) ++ xs := by simp [hs]
  have one : (((sheets.drop pre.length).take 1).map (·.planning)).sum = x.planning := by simp [hs]
  unfold beginLift
  split
  · rename_i fits
    have := h.1 (pre ++ [x]) ⟨pre.length, 1, x.planning, false⟩ closed hs' hc hl
      ⟨total.symm, by simp, rfl, by simp, hk, fits, one.symm⟩
    simpa using this
  · rename_i heavy
    have planned : PlannedLifts r sheets (closed ++ [⟨pre.length, 1, x.planning, true⟩]) :=
      hc.append total.symm (by simp [hs]) one.symm (fun _ => ⟨rfl, by simpa using heavy⟩) (by simp)
    have := h.2 (pre ++ [x]) (closed ++ [⟨pre.length, 1, x.planning, true⟩]) hs' planned (by simp; omega)
      (by simp [total])
    simpa using this

theorem walkFrom (r : Recipe) (hk : 1 ≤ r.liftSheets) (sheets xs : List SheetEntry) : WalkFrom r sheets xs := by
  induction xs with
  | nil =>
    refine ⟨fun pre l closed hs hc hl o => ⟨o.closed hc (by simp [hs]) fun e he => ?_, .inl ⟨rfl, ?_, ?_⟩⟩,
      fun pre closed hs hc hl total => ⟨hc, .inl ⟨rfl, hl, by simp [walkLifts, total, hs]⟩⟩⟩
    · simp [hs] at he
    · simp only [List.map_nil, walkLifts, List.length_append, List.length_singleton]
      omega
    · simp only [List.map_nil, walkLifts, liftTotal_append, ← o.first, o.reach]
      simp [hs]
  | cons x xs ih =>
    refine ⟨fun pre l closed hs hc hl o => ?_, fun pre closed hs hc hl total => ?_⟩
    · have here : sheets[pre.length]? = some x := by simp [hs]
      simp only [List.map_cons, walkLifts]
      split
      · rename_i joins
        have := ih.1 (pre ++ [x]) { l with count := l.count + 1, sum := l.sum + x.planning } closed (by simp [hs]) hc hl
          ⟨o.first, by have := o.reach; simp; omega, o.ordinary, by simp, joins.2, joins.1, by
            rw [planningSum_succ (by rw [o.reach]; exact here), ← o.sum]⟩
        simpa using this
      · rename_i stays
        have planned : PlannedLifts r sheets (closed ++ [l]) := o.closed hc (by simp [hs]) fun e he => by
          rw [here] at he
          injection he with he
          subst he
          have := o.fewer
          omega
        have total : liftTotal (closed ++ [l]) = pre.length := by rw [liftTotal_append, ← o.first, o.reach]
        split
        · rename_i full
          exact ⟨planned, .inr ⟨rfl, full, by rw [total, hs]; simp⟩⟩
        · rename_i room
          exact ih.begin hk hs planned (by simp [Config.liftLimit] at room ⊢; omega) total
    · simp only [List.map_cons, walkLifts]
      split
      · rename_i full
        exact ⟨hc, .inr ⟨rfl, full, by rw [total, hs]; simp⟩⟩
      · rename_i room
        exact ih.begin hk hs hc (by simp [Config.liftLimit] at room; omega) total

/-- The planner's walk over a whole sheet list. -/
theorem walkLifts_whole (r : Recipe) (hk : 1 ≤ r.liftSheets) (sheets : List SheetEntry) :
    WalkEnd r sheets (walkLifts r.liftCapacity r.liftSheets (sheets.map (·.planning)) 0 none []) :=
  (walkFrom r hk sheets sheets).2 [] [] rfl (by intro k l h; simp at h) (by simp) rfl

end Sys2Proof.Machine
end

