-- ==== Sys2Proof/Laws/LineSetup.lean ====
section
/-! SUPPORT. The searches that validation makes over the ports, said once (R96). -/

namespace Sys2Proof.Machine

theorem mem_stationPorts (p : StationPort) : p ∈ stationPorts := by cases p <;> simp [stationPorts]

/-- A search over the ports finds the first that a test holds of. -/
theorem find_stationPorts_eq_some_iff (bad : StationPort → Bool) (p : StationPort) :
    stationPorts.find? bad = some p ↔ IsFirstPort (fun q => bad q = true) p := by
  constructor
  · intro h
    refine ⟨List.find?_some h, fun q before => ?_⟩
    revert h before
    cases p <;> cases q <;> simp only [stationPorts, List.find?_cons, stationNumber] <;> cases bad .p1 <;>
      cases bad .p2 <;> cases bad .p3 <;> cases bad .p4 <;> cases bad .p5 <;> cases bad .p6 <;> simp
  · rintro ⟨h, earlier⟩
    have e1 := earlier .p1
    have e2 := earlier .p2
    have e3 := earlier .p3
    have e4 := earlier .p4
    have e5 := earlier .p5
    cases p <;> simp_all [stationPorts, stationNumber]

theorem find_stationPorts_eq_none_iff (bad : StationPort → Bool) :
    stationPorts.find? bad = none ↔ ∀ p, bad p ≠ true :=
  List.find?_eq_none.trans ⟨fun h p => h p (mem_stationPorts p), fun h p _ => h p⟩

theorem IsFirstPort.congr {P Q : StationPort → Prop} (h : ∀ q, P q ↔ Q q) (p : StationPort) :
    IsFirstPort P p ↔ IsFirstPort Q p := by
  simp only [IsFirstPort, h]

theorem IsFirstPort.unique {P : StationPort → Prop} {p q : StationPort} (a : IsFirstPort P p) (b : IsFirstPort P q) :
    p = q := by
  have h1 := fun h => b.2 p h a.1
  have h2 := fun h => a.2 q h b.1
  revert h1 h2
  cases p <;> cases q <;> simp [stationNumber]

theorem firstStation_eq_some_iff (t : PerStation Station) (test : StationRole → Station → Bool) (p : StationPort) :
    firstStation t test = some p ↔
      IsFirstPort (fun q => ∃ r, (t.get q).role = .station r ∧ test r (t.get q) = true) p := by
  unfold firstStation
  rw [find_stationPorts_eq_some_iff]
  exact IsFirstPort.congr (fun q => by cases h : (t.get q).role <;> simp [Role.stationRole]) p

theorem firstStation_eq_none_iff (t : PerStation Station) (test : StationRole → Station → Bool) :
    firstStation t test = none ↔ ∀ q r, (t.get q).role = .station r → test r (t.get q) ≠ true := by
  unfold firstStation
  rw [find_stationPorts_eq_none_iff]
  exact forall_congr' fun q => by cases h : (t.get q).role <;> simp [Role.stationRole]

theorem mem_portsWith (t : PerStation Station) (role : Role) (p : StationPort) :
    p ∈ portsWith t role ↔ (t.get p).role = role := by
  simp [portsWith, mem_stationPorts]

/-- The largest tolerance is that of some station (R96, order 11). -/
theorem le_largestTol_iff (t : PerStation Station) (n : Nat) :
    n ≤ 2 * largestTol t ↔ n = 0 ∨ ∃ p, IsStaffed t p ∧ n ≤ 2 * (t.get p).tol := by
  have walk : ∀ (ports : List StationPort) (m : Nat),
      n ≤ 2 * (ports.foldl (fun m p =>
        match (t.get p).role.stationRole with
        | none => m
        | some _ => max m (t.get p).tol) m) ↔
      n ≤ 2 * m ∨ ∃ p ∈ ports, IsStaffed t p ∧ n ≤ 2 * (t.get p).tol := by
    intro ports
    induction ports with
    | nil => simp
    | cons p ports ih =>
      intro m
      rw [List.foldl_cons, ih]
      cases h : (t.get p).role with
      | none => simp [Role.stationRole, IsStaffed, h]
      | collator => simp [Role.stationRole, IsStaffed, h]
      | station r =>
        have : n ≤ 2 * max m (t.get p).tol ↔ n ≤ 2 * m ∨ n ≤ 2 * (t.get p).tol := by omega
        simp [Role.stationRole, IsStaffed, h, this, or_assoc]
  have whole := walk stationPorts 0
  refine Iff.trans (Iff.of_eq (by unfold largestTol; congr 2)) (whole.trans ?_)
  simp [mem_stationPorts]

end Sys2Proof.Machine
end

