-- ==== Sys2Proof/Laws/State.lean ====
section
/-! SUPPORT. What each update of State leaves in each field: lemmas true by `rfl`, or by cases on a port, a slot, a role
or a name. -/

namespace Sys2Proof.Machine

/-! ### Values by port -/

@[simp] theorem PerStation.get_set_self {α : Type} (v : PerStation α) (p : StationPort) (x : α) :
    (v.set p x).get p = x := by cases p <;> rfl

@[simp] theorem PerStation.get_set_of_ne {α : Type} (v : PerStation α) {p q : StationPort} (x : α) (h : q ≠ p) :
    (v.set p x).get q = v.get q := by
  cases p <;> cases q <;> first | rfl | exact absurd rfl h

@[simp] theorem PerStation.get_replicate {α : Type} (x : α) (p : StationPort) :
    (PerStation.replicate x).get p = x := by cases p <;> rfl

@[simp] theorem PerStation.set_set {α : Type} (v : PerStation α) (p : StationPort) (x y : α) :
    (v.set p x).set p y = v.set p y := by cases p <;> rfl

@[simp] theorem PerPort.get_set_self {α : Type} (v : PerPort α) (p : Port) (x : α) : (v.set p x).get p = x := by
  cases p with
  | supervisor => rfl
  | station q => exact PerStation.get_set_self v.stations q x

@[simp] theorem PerPort.get_set_of_ne {α : Type} (v : PerPort α) {p q : Port} (x : α) (h : q ≠ p) :
    (v.set p x).get q = v.get q := by
  cases p with
  | supervisor => cases q with
    | supervisor => exact absurd rfl h
    | station q => rfl
  | station p => cases q with
    | supervisor => rfl
    | station q => exact PerStation.get_set_of_ne v.stations x fun e => h (e ▸ rfl)

@[simp] theorem PerPort.set_set {α : Type} (v : PerPort α) (p : Port) (x y : α) :
    (v.set p x).set p y = v.set p y := by
  cases p with
  | supervisor => rfl
  | station q => simp [PerPort.set]

@[simp] theorem State.port_updatePort_self (s : State) (p : Port) (f : PortState → PortState) :
    (s.updatePort p f).port p = f (s.port p) := by simp [State.port, State.updatePort]

@[simp] theorem State.port_updatePort_of_ne (s : State) {p q : Port} (f : PortState → PortState) (h : q ≠ p) :
    (s.updatePort p f).port q = s.port q := by simp [State.port, State.updatePort, h]

/-- Two updates of one port are one. -/
theorem State.updatePort_updatePort (s : State) (p : Port) (f g : PortState → PortState) :
    (s.updatePort p f).updatePort p g = s.updatePort p (fun q => g (f q)) := by
  simp [State.port, State.updatePort]

/-! ### Plan slots -/

@[simp] theorem PlanUnit.slot_setSlot_self (u : PlanUnit) (i : SlotId) (x : PlanSlot) : (u.setSlot i x).slot i = x := by
  cases i <;> rfl

@[simp] theorem PlanUnit.slot_setSlot_of_ne (u : PlanUnit) {i k : SlotId} (x : PlanSlot) (h : k ≠ i) :
    (u.setSlot i x).slot k = u.slot k := by
  cases i <;> cases k <;> first | rfl | exact absurd rfl h

@[simp] theorem PlanUnit.die_setSlot (u : PlanUnit) (i : SlotId) (x : PlanSlot) : (u.setSlot i x).die = u.die := by
  cases i <;> rfl

@[simp] theorem PlanUnit.jobCounter_setSlot (u : PlanUnit) (i : SlotId) (x : PlanSlot) :
    (u.setSlot i x).jobCounter = u.jobCounter := by cases i <;> rfl

@[simp] theorem PlanSlot.job?_mapJob (f : Job → Job) (x : PlanSlot) : (x.mapJob f).job? = x.job?.map f := by
  cases x <;> rfl

@[simp] theorem PlanSlot.number?_mapJob (f : Job → Job) (x : PlanSlot) : (x.mapJob f).number? = x.number? := by
  cases x <;> rfl

@[simp] theorem PlanSlot.isCurrent_mapJob (f : Job → Job) (x : PlanSlot) : (x.mapJob f).isCurrent = x.isCurrent := by
  cases x <;> rfl

@[simp] theorem PlanSlot.isStaged_mapJob (f : Job → Job) (x : PlanSlot) : (x.mapJob f).isStaged = x.isStaged := by
  cases x <;> rfl

@[simp] theorem PlanSlot.isDraining_mapJob (f : Job → Job) (x : PlanSlot) :
    (x.mapJob f).isDraining = x.isDraining := by cases x <;> rfl

/-! ### Progress entries and check words -/

@[simp] theorem ProgressEntries.get_set_self (e : ProgressEntries) (r : StationRole) (p : Progress) :
    (e.set r p).get r = some p := by cases r <;> rfl

@[simp] theorem ProgressEntries.get_set_of_ne (e : ProgressEntries) {r q : StationRole} (p : Progress) (h : q ≠ r) :
    (e.set r p).get q = e.get q := by
  cases r <;> cases q <;> first | rfl | exact absurd rfl h

@[simp] theorem CheckWord.has_add_self (w : CheckWord) (c : Check) : (w.add c).has c = true := by cases c <;> rfl

@[simp] theorem CheckWord.has_add_of_ne (w : CheckWord) {c d : Check} (h : d ≠ c) : (w.add c).has d = w.has d := by
  cases c <;> cases d <;> first | rfl | exact absurd rfl h

/-- A name once in a check word stays there (R20). -/
theorem CheckWord.has_add_of_has (w : CheckWord) (c d : Check) (h : w.has d = true) : (w.add c).has d = true := by
  by_cases e : d = c
  · rw [e]; exact CheckWord.has_add_self w c
  · rw [CheckWord.has_add_of_ne w e]; exact h

@[simp] theorem CauseSet.has_add_self (w : CauseSet) (c : Cause) : (w.add c).has c = true := by cases c <;> rfl

@[simp] theorem CauseSet.has_add_of_ne (w : CauseSet) {c d : Cause} (h : d ≠ c) : (w.add c).has d = w.has d := by
  cases c <;> cases d <;> first | rfl | exact absurd rfl h

/-! ### Set records -/

@[simp] theorem SetRecord.number_setProgress (x : SetRecord) (r : StationRole) (p : Progress) :
    (x.setProgress r p).number = x.number := rfl
@[simp] theorem SetRecord.slot_setProgress (x : SetRecord) (r : StationRole) (p : Progress) :
    (x.setProgress r p).slot = x.slot := rfl
@[simp] theorem SetRecord.state_setProgress (x : SetRecord) (r : StationRole) (p : Progress) :
    (x.setProgress r p).state = x.state := rfl
@[simp] theorem SetRecord.sheets_setProgress (x : SetRecord) (r : StationRole) (p : Progress) :
    (x.setProgress r p).sheets = x.sheets := rfl
@[simp] theorem SetRecord.liftPlan_setProgress (x : SetRecord) (r : StationRole) (p : Progress) :
    (x.setProgress r p).liftPlan = x.liftPlan := rfl
@[simp] theorem SetRecord.liftsDone_setProgress (x : SetRecord) (r : StationRole) (p : Progress) :
    (x.setProgress r p).liftsDone = x.liftsDone := rfl
@[simp] theorem SetRecord.checks_setProgress (x : SetRecord) (r : StationRole) (p : Progress) :
    (x.setProgress r p).checks = x.checks := rfl
@[simp] theorem SetRecord.commanded_setProgress (x : SetRecord) (r : StationRole) (p : Progress) :
    (x.setProgress r p).commanded = x.commanded := rfl
@[simp] theorem SetRecord.taken_setProgress (x : SetRecord) (r : StationRole) (p : Progress) :
    (x.setProgress r p).taken = x.taken := rfl
@[simp] theorem SetRecord.progress_setProgress (x : SetRecord) (r : StationRole) (p : Progress) :
    (x.setProgress r p).progress = x.progress.set r p := rfl

@[simp] theorem SetRecord.number_addCheck (x : SetRecord) (c : Check) : (x.addCheck c).number = x.number := rfl
@[simp] theorem SetRecord.slot_addCheck (x : SetRecord) (c : Check) : (x.addCheck c).slot = x.slot := rfl
@[simp] theorem SetRecord.state_addCheck (x : SetRecord) (c : Check) : (x.addCheck c).state = x.state := rfl
@[simp] theorem SetRecord.sheets_addCheck (x : SetRecord) (c : Check) : (x.addCheck c).sheets = x.sheets := rfl
@[simp] theorem SetRecord.liftPlan_addCheck (x : SetRecord) (c : Check) : (x.addCheck c).liftPlan = x.liftPlan := rfl
@[simp] theorem SetRecord.liftsDone_addCheck (x : SetRecord) (c : Check) : (x.addCheck c).liftsDone = x.liftsDone := rfl
@[simp] theorem SetRecord.progress_addCheck (x : SetRecord) (c : Check) : (x.addCheck c).progress = x.progress := rfl
@[simp] theorem SetRecord.commanded_addCheck (x : SetRecord) (c : Check) : (x.addCheck c).commanded = x.commanded := rfl
@[simp] theorem SetRecord.taken_addCheck (x : SetRecord) (c : Check) : (x.addCheck c).taken = x.taken := rfl
@[simp] theorem SetRecord.checks_addCheck (x : SetRecord) (c : Check) : (x.addCheck c).checks = x.checks.add c := rfl

/-! ### Updates of the state -/

@[simp] theorem State.position_updatePort (s : State) (p : Port) (f : PortState → PortState) : (s.updatePort p f).position = s.position := rfl
@[simp] theorem State.tracker_updatePort (s : State) (p : Port) (f : PortState → PortState) : (s.updatePort p f).tracker = s.tracker := rfl
@[simp] theorem State.plan_updatePort (s : State) (p : Port) (f : PortState → PortState) : (s.updatePort p f).plan = s.plan := rfl
@[simp] theorem State.verdict_updatePort (s : State) (p : Port) (f : PortState → PortState) : (s.updatePort p f).verdict = s.verdict := rfl
@[simp] theorem State.store_updatePort (s : State) (p : Port) (f : PortState → PortState) : (s.updatePort p f).store = s.store := rfl
@[simp] theorem State.line_updatePort (s : State) (p : Port) (f : PortState → PortState) : (s.updatePort p f).line = s.line := rfl
@[simp] theorem State.pending_updatePort (s : State) (p : Port) (f : PortState → PortState) : (s.updatePort p f).pending = s.pending := rfl

@[simp] theorem State.position_pushAnswer (s : State) (p : Port) (bytes : List Byte) : (s.pushAnswer p bytes).position = s.position := rfl
@[simp] theorem State.tracker_pushAnswer (s : State) (p : Port) (bytes : List Byte) : (s.pushAnswer p bytes).tracker = s.tracker := rfl
@[simp] theorem State.plan_pushAnswer (s : State) (p : Port) (bytes : List Byte) : (s.pushAnswer p bytes).plan = s.plan := rfl
@[simp] theorem State.verdict_pushAnswer (s : State) (p : Port) (bytes : List Byte) : (s.pushAnswer p bytes).verdict = s.verdict := rfl
@[simp] theorem State.store_pushAnswer (s : State) (p : Port) (bytes : List Byte) : (s.pushAnswer p bytes).store = s.store := rfl
@[simp] theorem State.line_pushAnswer (s : State) (p : Port) (bytes : List Byte) : (s.pushAnswer p bytes).line = s.line := rfl
@[simp] theorem State.pending_pushAnswer (s : State) (p : Port) (bytes : List Byte) : (s.pushAnswer p bytes).pending = s.pending := rfl

@[simp] theorem State.position_setSlot (s : State) (i : SlotId) (x : PlanSlot) : (s.setSlot i x).position = s.position := rfl
@[simp] theorem State.tracker_setSlot (s : State) (i : SlotId) (x : PlanSlot) : (s.setSlot i x).tracker = s.tracker := rfl
@[simp] theorem State.verdict_setSlot (s : State) (i : SlotId) (x : PlanSlot) : (s.setSlot i x).verdict = s.verdict := rfl
@[simp] theorem State.store_setSlot (s : State) (i : SlotId) (x : PlanSlot) : (s.setSlot i x).store = s.store := rfl
@[simp] theorem State.line_setSlot (s : State) (i : SlotId) (x : PlanSlot) : (s.setSlot i x).line = s.line := rfl
@[simp] theorem State.ports_setSlot (s : State) (i : SlotId) (x : PlanSlot) : (s.setSlot i x).ports = s.ports := rfl
@[simp] theorem State.pending_setSlot (s : State) (i : SlotId) (x : PlanSlot) : (s.setSlot i x).pending = s.pending := rfl

@[simp] theorem State.position_updateSet (s : State) (n : Nat) (f : SetRecord → SetRecord) : (s.updateSet n f).position = s.position := rfl
@[simp] theorem State.plan_updateSet (s : State) (n : Nat) (f : SetRecord → SetRecord) : (s.updateSet n f).plan = s.plan := rfl
@[simp] theorem State.verdict_updateSet (s : State) (n : Nat) (f : SetRecord → SetRecord) : (s.updateSet n f).verdict = s.verdict := rfl
@[simp] theorem State.store_updateSet (s : State) (n : Nat) (f : SetRecord → SetRecord) : (s.updateSet n f).store = s.store := rfl
@[simp] theorem State.line_updateSet (s : State) (n : Nat) (f : SetRecord → SetRecord) : (s.updateSet n f).line = s.line := rfl
@[simp] theorem State.ports_updateSet (s : State) (n : Nat) (f : SetRecord → SetRecord) : (s.updateSet n f).ports = s.ports := rfl
@[simp] theorem State.pending_updateSet (s : State) (n : Nat) (f : SetRecord → SetRecord) : (s.updateSet n f).pending = s.pending := rfl

@[simp] theorem State.position_removeSet (s : State) (n : Nat) : (s.removeSet n).position = s.position := rfl
@[simp] theorem State.plan_removeSet (s : State) (n : Nat) : (s.removeSet n).plan = s.plan := rfl
@[simp] theorem State.verdict_removeSet (s : State) (n : Nat) : (s.removeSet n).verdict = s.verdict := rfl
@[simp] theorem State.store_removeSet (s : State) (n : Nat) : (s.removeSet n).store = s.store := rfl
@[simp] theorem State.line_removeSet (s : State) (n : Nat) : (s.removeSet n).line = s.line := rfl
@[simp] theorem State.ports_removeSet (s : State) (n : Nat) : (s.removeSet n).ports = s.ports := rfl
@[simp] theorem State.pending_removeSet (s : State) (n : Nat) : (s.removeSet n).pending = s.pending := rfl

@[simp] theorem State.position_releaseSlot (s : State) (i : SlotId) : (s.releaseSlot i).position = s.position := rfl
@[simp] theorem State.tracker_releaseSlot (s : State) (i : SlotId) : (s.releaseSlot i).tracker = s.tracker := rfl
@[simp] theorem State.verdict_releaseSlot (s : State) (i : SlotId) : (s.releaseSlot i).verdict = s.verdict := rfl
@[simp] theorem State.store_releaseSlot (s : State) (i : SlotId) : (s.releaseSlot i).store = s.store := rfl
@[simp] theorem State.line_releaseSlot (s : State) (i : SlotId) : (s.releaseSlot i).line = s.line := rfl
@[simp] theorem State.ports_releaseSlot (s : State) (i : SlotId) : (s.releaseSlot i).ports = s.ports := rfl
@[simp] theorem State.pending_releaseSlot (s : State) (i : SlotId) : (s.releaseSlot i).pending = s.pending := rfl

@[simp] theorem State.position_handCause (s : State) (c : Cause) : (s.handCause c).position = s.position := rfl
@[simp] theorem State.tracker_handCause (s : State) (c : Cause) : (s.handCause c).tracker = s.tracker := rfl
@[simp] theorem State.plan_handCause (s : State) (c : Cause) : (s.handCause c).plan = s.plan := rfl
@[simp] theorem State.verdict_handCause (s : State) (c : Cause) : (s.handCause c).verdict = s.verdict := rfl
@[simp] theorem State.store_handCause (s : State) (c : Cause) : (s.handCause c).store = s.store := rfl
@[simp] theorem State.ports_handCause (s : State) (c : Cause) : (s.handCause c).ports = s.ports := rfl
@[simp] theorem State.pending_handCause (s : State) (c : Cause) : (s.handCause c).pending = s.pending := rfl

@[simp] theorem State.position_raiseJobDone (s : State) (x : PlanSlot) : (s.raiseJobDone x).position = s.position := rfl
@[simp] theorem State.tracker_raiseJobDone (s : State) (x : PlanSlot) : (s.raiseJobDone x).tracker = s.tracker := rfl
@[simp] theorem State.plan_raiseJobDone (s : State) (x : PlanSlot) : (s.raiseJobDone x).plan = s.plan := rfl
@[simp] theorem State.verdict_raiseJobDone (s : State) (x : PlanSlot) : (s.raiseJobDone x).verdict = s.verdict := rfl
@[simp] theorem State.store_raiseJobDone (s : State) (x : PlanSlot) : (s.raiseJobDone x).store = s.store := rfl
@[simp] theorem State.ports_raiseJobDone (s : State) (x : PlanSlot) : (s.raiseJobDone x).ports = s.ports := rfl
@[simp] theorem State.pending_raiseJobDone (s : State) (x : PlanSlot) : (s.raiseJobDone x).pending = s.pending := rfl

@[simp] theorem State.position_clearMiss (s : State) (p : StationPort) : (s.clearMiss p).position = s.position := rfl
@[simp] theorem State.plan_clearMiss (s : State) (p : StationPort) : (s.clearMiss p).plan = s.plan := rfl
@[simp] theorem State.verdict_clearMiss (s : State) (p : StationPort) : (s.clearMiss p).verdict = s.verdict := rfl
@[simp] theorem State.store_clearMiss (s : State) (p : StationPort) : (s.clearMiss p).store = s.store := rfl
@[simp] theorem State.line_clearMiss (s : State) (p : StationPort) : (s.clearMiss p).line = s.line := rfl
@[simp] theorem State.ports_clearMiss (s : State) (p : StationPort) : (s.clearMiss p).ports = s.ports := rfl
@[simp] theorem State.pending_clearMiss (s : State) (p : StationPort) : (s.clearMiss p).pending = s.pending := rfl

@[simp] theorem State.position_driveAttn (s : State) : (s.driveAttn).position = s.position := rfl
@[simp] theorem State.tracker_driveAttn (s : State) : (s.driveAttn).tracker = s.tracker := rfl
@[simp] theorem State.plan_driveAttn (s : State) : (s.driveAttn).plan = s.plan := rfl
@[simp] theorem State.verdict_driveAttn (s : State) : (s.driveAttn).verdict = s.verdict := rfl
@[simp] theorem State.store_driveAttn (s : State) : (s.driveAttn).store = s.store := rfl
@[simp] theorem State.ports_driveAttn (s : State) : (s.driveAttn).ports = s.ports := rfl
@[simp] theorem State.pending_driveAttn (s : State) : (s.driveAttn).pending = s.pending := rfl

@[simp] theorem State.nextNumber_updateSet (s : State) (n : Nat) (f : SetRecord → SetRecord) :
    (s.updateSet n f).tracker.nextNumber = s.tracker.nextNumber := rfl
@[simp] theorem State.nextNumber_removeSet (s : State) (n : Nat) : (s.removeSet n).tracker.nextNumber = s.tracker.nextNumber := rfl
@[simp] theorem State.lastOpened_updateSet (s : State) (n : Nat) (f : SetRecord → SetRecord) :
    (s.updateSet n f).tracker.lastOpened = s.tracker.lastOpened := rfl
@[simp] theorem State.lastOpened_removeSet (s : State) (n : Nat) : (s.removeSet n).tracker.lastOpened = s.tracker.lastOpened := rfl
@[simp] theorem State.stations_updateSet (s : State) (n : Nat) (f : SetRecord → SetRecord) :
    (s.updateSet n f).tracker.stations = s.tracker.stations := rfl
@[simp] theorem State.stations_removeSet (s : State) (n : Nat) : (s.removeSet n).tracker.stations = s.tracker.stations := rfl
@[simp] theorem State.lineConfig_updateSet (s : State) (n : Nat) (f : SetRecord → SetRecord) :
    (s.updateSet n f).tracker.lineConfig = s.tracker.lineConfig := rfl
@[simp] theorem State.lineConfig_removeSet (s : State) (n : Nat) : (s.removeSet n).tracker.lineConfig = s.tracker.lineConfig := rfl
@[simp] theorem State.missCounts_updateSet (s : State) (n : Nat) (f : SetRecord → SetRecord) :
    (s.updateSet n f).tracker.missCounts = s.tracker.missCounts := rfl
@[simp] theorem State.missCounts_removeSet (s : State) (n : Nat) : (s.removeSet n).tracker.missCounts = s.tracker.missCounts := rfl
@[simp] theorem State.queue_updateSet (s : State) (n : Nat) (f : SetRecord → SetRecord) :
    (s.updateSet n f).tracker.queue = s.tracker.queue.map fun x => if x.number = n then f x else x := rfl
@[simp] theorem State.queue_removeSet (s : State) (n : Nat) :
    (s.removeSet n).tracker.queue = s.tracker.queue.filter fun x => x.number ≠ n := rfl
@[simp] theorem State.queue_clearMiss (s : State) (p : StationPort) : (s.clearMiss p).tracker.queue = s.tracker.queue := rfl
@[simp] theorem State.stations_clearMiss (s : State) (p : StationPort) :
    (s.clearMiss p).tracker.stations = s.tracker.stations := rfl
@[simp] theorem State.lineConfig_clearMiss (s : State) (p : StationPort) :
    (s.clearMiss p).tracker.lineConfig = s.tracker.lineConfig := rfl
@[simp] theorem State.plan_setSlot (s : State) (i : SlotId) (x : PlanSlot) :
    (s.setSlot i x).plan = s.plan.setSlot i x := rfl
@[simp] theorem State.plan_releaseSlot (s : State) (i : SlotId) :
    (s.releaseSlot i).plan = s.plan.setSlot i (s.plan.slot i).release := rfl
@[simp] theorem State.line_handCause (s : State) (c : Cause) : (s.handCause c).line = s.line.handCause c := rfl
@[simp] theorem State.state_driveAttn (s : State) : s.driveAttn.line.state = s.line.state := rfl
@[simp] theorem State.causes_driveAttn (s : State) : s.driveAttn.line.causes = s.line.causes := rfl
@[simp] theorem State.jobDone_driveAttn (s : State) : s.driveAttn.line.jobDone = s.line.jobDone := rfl
@[simp] theorem State.storeEnd_driveAttn (s : State) : s.driveAttn.line.storeEnd = s.line.storeEnd := rfl
@[simp] theorem State.lstop_driveAttn (s : State) : s.driveAttn.line.lstop = s.line.lstop := rfl
@[simp] theorem State.attn_driveAttn (s : State) : s.driveAttn.line.attn = s.attnCondition := rfl
@[simp] theorem State.attnCondition_driveAttn (s : State) : s.driveAttn.attnCondition = s.attnCondition := rfl
@[simp] theorem State.station_updatePort (s : State) (p : Port) (f : PortState → PortState) (q : StationPort) :
    (s.updatePort p f).station q = s.station q := rfl
@[simp] theorem State.findSet_updatePort (s : State) (p : Port) (f : PortState → PortState) (n : Nat) :
    (s.updatePort p f).findSet n = s.findSet n := rfl
@[simp] theorem State.port_driveAttn (s : State) (p : Port) : s.driveAttn.port p = s.port p := rfl

end Sys2Proof.Machine
end

