-- ==== Sys2Proof/Laws/Ops.lean ====
section
/-! SUPPORT. What the shared operations can do: the taking of a frame, halt causes, releases, settling, crossings. None
of them but the taking reads or writes a port, and none touches the queue of commands. -/

namespace Sys2Proof.Machine

/-! ### Taking a frame -/

@[simp] theorem State.port_withoutFrame_self (s : State) (p : Port) (rest : List Frame) :
    (s.withoutFrame p rest).port p = { s.port p with buffer := rest } := by simp [State.withoutFrame]

@[simp] theorem State.port_withoutFrame_of_ne (s : State) {p q : Port} (rest : List Frame) (h : q ≠ p) :
    (s.withoutFrame p rest).port q = s.port q := by simp [State.withoutFrame, h]

/-- Taking a frame off and answering it are one change of the port. -/
theorem State.reply_eq (t : State) (p : Port) (f : Frame) (rest : List Frame) (a : Answer) :
    ((t.withoutFrame p rest).pushAnswer p (a.wire f.kind)).driveAttn = t.reply p f rest a := by
  simp only [State.withoutFrame, State.pushAnswer, State.reply, State.updatePort_updatePort]

/-- A wanted frame that is next to be taken is taken. -/
theorem takeFrame_taken {p : Port} {wanted : Byte → Bool} {act : Frame → State → Reply} {s : State} {f : Frame}
    {rest : List Frame} (h : s.Taking p f rest) (hw : wanted f.kind = true) :
    takeFrame p wanted act s =
      .next (((act f (s.withoutFrame p rest)).1.pushAnswer p
        ((act f (s.withoutFrame p rest)).2.wire f.kind)).driveAttn) := by
  obtain ⟨hb, ha⟩ := h
  simp [takeFrame, hb, hw, ha]

/-- Nothing is taken off an empty buffer. -/
theorem takeFrame_empty {p : Port} {wanted : Byte → Bool} {act : Frame → State → Reply} {s : State}
    (h : (s.port p).buffer = []) : takeFrame p wanted act s = .next s := by simp [takeFrame, h]

/-- A port whose answer queue is full takes nothing (R166). -/
theorem takeFrame_full {p : Port} {wanted : Byte → Bool} {act : Frame → State → Reply} {s : State}
    (h : Config.answerDepth ≤ (s.port p).answers.length) : takeFrame p wanted act s = .next s := by
  unfold takeFrame
  split
  · rfl
  · rw [if_neg]; simp; omega

/-- A frame of another kind is not taken under this one. -/
theorem takeFrame_otherKind {p : Port} {wanted : Byte → Bool} {act : Frame → State → Reply} {s : State} {f : Frame}
    {rest : List Frame} (h : (s.port p).buffer = f :: rest) (hw : wanted f.kind = false) :
    takeFrame p wanted act s = .next s := by simp [takeFrame, h, hw]

/-- Everything a taking can do: nothing, or take the oldest frame, of a wanted kind, with room for its answer. -/
theorem takeFrame_cases (p : Port) (wanted : Byte → Bool) (act : Frame → State → Reply) (s : State) :
    takeFrame p wanted act s = .next s ∨
      ∃ f rest, s.Taking p f rest ∧ wanted f.kind = true ∧
        takeFrame p wanted act s =
          .next (((act f (s.withoutFrame p rest)).1.pushAnswer p
            ((act f (s.withoutFrame p rest)).2.wire f.kind)).driveAttn) := by
  cases hb : (s.port p).buffer with
  | nil => exact .inl (takeFrame_empty hb)
  | cons f rest =>
    by_cases ha : (s.port p).answers.length < Config.answerDepth
    · cases hw : wanted f.kind with
      | false => exact .inl (takeFrame_otherKind hb hw)
      | true => exact .inr ⟨f, rest, ⟨hb, ha⟩, hw, takeFrame_taken ⟨hb, ha⟩ hw⟩
    · exact .inl (takeFrame_full (by omega))

/-- A property that frames and answers do not touch is kept by a taking whose block keeps it. -/
theorem takeFrame_keeps {Inv : State → Prop} {p : Port} {wanted : Byte → Bool} {act : Frame → State → Reply}
    {s t : State} (hpop : ∀ s rest, Inv s → Inv (s.withoutFrame p rest))
    (hpush : ∀ s b, Inv s → Inv ((s.pushAnswer p b).driveAttn)) (hact : ∀ f s, Inv s → Inv (act f s).1)
    (hs : Inv s) (h : takeFrame p wanted act s = .next t) : Inv t := by
  rcases takeFrame_cases p wanted act s with h' | ⟨f, rest, -, -, h'⟩
  · rw [h'] at h; cases h; exact hs
  · rw [h'] at h; cases h; exact hpush _ _ (hact _ _ (hpop _ _ hs))

/-- A request of the right length, next to be taken, is taken with its parameters and capture position. -/
theorem takeRequest_taken {α : Type} {p : Port} {kind : Byte} {parse : List Byte → Option α}
    {act : α → Position → State → Reply} {s : State} {payload : List Byte} {capture : Position} {rest : List Frame}
    {a : α} (h : s.Taking p ⟨kind, payload, capture⟩ rest) (hp : parse payload = some a) :
    takeRequest p kind parse act s =
      .next (((act a capture (s.withoutFrame p rest)).1.pushAnswer p
        ((act a capture (s.withoutFrame p rest)).2.wire kind)).driveAttn) := by
  unfold takeRequest
  rw [takeFrame_taken h (by simp)]
  simp only [hp]

/-- A request of the wrong length is answered BADLEN (R167). -/
theorem takeRequest_badLen {α : Type} {p : Port} {kind : Byte} {parse : List Byte → Option α}
    {act : α → Position → State → Reply} {s : State} {payload : List Byte} {capture : Position} {rest : List Frame}
    (h : s.Taking p ⟨kind, payload, capture⟩ rest) (hp : parse payload = none) :
    takeRequest p kind parse act s = .next (s.reply p ⟨kind, payload, capture⟩ rest (.bare .badLen)) := by
  unfold takeRequest
  rw [takeFrame_taken h (by simp)]
  simp only [hp]
  rw [← State.reply_eq]

/-- The reply of a block that neither reads nor writes the buffer of the port: the effect is that on the state before
the taking. -/
theorem takeRequest_reply {α : Type} {p : Port} {kind : Byte} {parse : List Byte → Option α}
    {act : α → Position → State → Reply} {s : State} {payload : List Byte} {capture : Position} {rest : List Frame}
    {a : α} (h : s.Taking p ⟨kind, payload, capture⟩ rest) (hp : parse payload = some a)
    (hc : act a capture (s.withoutFrame p rest) =
      ((act a capture s).1.withoutFrame p rest, (act a capture s).2)) :
    takeRequest p kind parse act s =
      .next ((act a capture s).1.reply p ⟨kind, payload, capture⟩ rest (act a capture s).2) := by
  rw [takeRequest_taken h hp, hc, ← State.reply_eq]

/-! ### Operations that leave the ports alone -/

/-- The state with other ports. -/
def State.withPorts (s : State) (v : PerPort PortState) : State := { s with ports := v }

theorem State.withPorts_ite (s t : State) (v : PerPort PortState) (c : Prop) [Decidable c] :
    (if c then s else t).withPorts v = if c then s.withPorts v else t.withPorts v := by
  by_cases h : c
  · rw [if_pos h, if_pos h]
  · rw [if_neg h, if_neg h]

theorem State.withoutFrame_eq (s : State) (p : Port) (rest : List Frame) :
    s.withoutFrame p rest = s.withPorts (s.ports.set p { s.port p with buffer := rest }) := rfl

@[simp] theorem State.handCause_withPorts (s : State) (v : PerPort PortState) (c : Cause) :
    (s.withPorts v).handCause c = (s.handCause c).withPorts v := rfl

@[simp] theorem State.updateSet_withPorts (s : State) (v : PerPort PortState) (n : Nat) (f : SetRecord → SetRecord) :
    (s.withPorts v).updateSet n f = (s.updateSet n f).withPorts v := rfl

@[simp] theorem State.removeSet_withPorts (s : State) (v : PerPort PortState) (n : Nat) :
    (s.withPorts v).removeSet n = (s.removeSet n).withPorts v := rfl

@[simp] theorem State.releaseSlot_withPorts (s : State) (v : PerPort PortState) (i : SlotId) :
    (s.withPorts v).releaseSlot i = (s.releaseSlot i).withPorts v := rfl

@[simp] theorem State.findSet_withPorts (s : State) (v : PerPort PortState) (n : Nat) :
    (s.withPorts v).findSet n = s.findSet n := rfl

@[simp] theorem State.releaseLine_withPorts (s : State) (v : PerPort PortState) :
    (s.withPorts v).releaseLine = s.releaseLine.withPorts v := by
  by_cases h : s.line.state = .drain ∧ s.tracker.queue = [] <;> simp [State.releaseLine, State.withPorts, h]

@[simp] theorem State.countOutlet_withPorts (s : State) (v : PerPort PortState) (i : SlotId) (o : Outlet) :
    (s.withPorts v).countOutlet i o = (s.countOutlet i o).withPorts v := by
  simp only [State.countOutlet, State.withPorts_ite]
  rfl

@[simp] theorem State.countRun_withPorts (s : State) (v : PerPort PortState) (o : Outlet) :
    (s.withPorts v).countRun o = (s.countRun o).withPorts v := by
  cases o <;> simp only [State.countRun, State.withPorts_ite] <;> rfl

@[simp] theorem State.settle_withPorts (s : State) (v : PerPort PortState) (w : Leaving) (x : SetRecord) :
    (s.withPorts v).settle w x = (s.settle w x).withPorts v := by
  simp only [State.settle, State.countOutlet_withPorts, State.countRun_withPorts]
  rfl

@[simp] theorem State.leave_withPorts (s : State) (v : PerPort PortState) (w : Leaving) (x : SetRecord) :
    (s.withPorts v).leave w x = (s.leave w x).withPorts v := by simp [State.leave]

@[simp] theorem State.leaveNumber_withPorts (s : State) (v : PerPort PortState) (w : Leaving) (n : Nat) :
    (s.withPorts v).leaveNumber w n = (s.leaveNumber w n).withPorts v := by
  simp only [State.leaveNumber, State.findSet_withPorts]
  split <;> simp

@[simp] theorem State.raiseMiss_withPorts (s : State) (v : PerPort PortState) (p : StationPort) :
    (s.withPorts v).raiseMiss p = (s.raiseMiss p).withPorts v := by
  by_cases h : s.tracker.missCounts.get p + 1 < Config.missRun <;>
    simp [State.raiseMiss, State.withPorts, h, State.handCause]

@[simp] theorem State.missCrossing_withPorts (s : State) (v : PerPort PortState) (p : StationPort) (r : StationRole)
    (n : Nat) : (s.withPorts v).missCrossing p r n = (s.missCrossing p r n).withPorts v := by
  have hp : (s.withPorts v).progressOf n r = s.progressOf n r := rfl
  unfold State.missCrossing
  simp only [hp, State.updateSet_withPorts, State.raiseMiss_withPorts, State.handCause_withPorts]
  rw [State.withPorts_ite, State.withPorts_ite]

@[simp] theorem State.closeCrossing_withPorts (s : State) (v : PerPort PortState) (r : StationRole) (n : Nat) :
    (s.withPorts v).closeCrossing r n = (s.closeCrossing r n).withPorts v := by
  have hp : (s.withPorts v).progressOf n r = s.progressOf n r := rfl
  unfold State.closeCrossing
  simp only [hp, State.updateSet_withPorts, State.handCause_withPorts]
  rw [State.withPorts_ite, State.withPorts_ite]

@[simp] theorem State.stationCrossings_withPorts (s : State) (v : PerPort PortState) (n old new : Nat)
    (p : StationPort) : (s.withPorts v).stationCrossings n old new p = (s.stationCrossings n old new p).withPorts v := by
  have hs : (s.withPorts v).station p = s.station p := rfl
  simp only [State.stationCrossings, hs]
  split
  · rfl
  · simp only [State.missCrossing_withPorts, State.closeCrossing_withPorts, ← State.withPorts_ite]

theorem State.foldl_withPorts {α : Type} (f : State → α → State)
    (h : ∀ (s : State) (v : PerPort PortState) a, f (s.withPorts v) a = (f s a).withPorts v) (l : List α) :
    ∀ (s : State) (v : PerPort PortState), l.foldl f (s.withPorts v) = (l.foldl f s).withPorts v := by
  induction l with
  | nil => intro s v; rfl
  | cons a l ih => intro s v; simp only [List.foldl_cons, h, ih]

@[simp] theorem State.crossSet_withPorts (s : State) (v : PerPort PortState) (n old new : Nat) :
    (s.withPorts v).crossSet n old new = (s.crossSet n old new).withPorts v := by
  simp only [State.crossSet]
  rw [State.foldl_withPorts (fun t p => t.stationCrossings n old new p)
    (fun s v p => State.stationCrossings_withPorts s v n old new p)]
  have ht : ∀ t : State, (t.withPorts v).tracker = t.tracker := fun _ => rfl
  simp only [ht, State.leaveNumber_withPorts, State.withPorts_ite]

/-- An operation that commutes with other ports leaves the ports as they are. -/
theorem State.ports_of_commutes {f : State → State}
    (h : ∀ (s : State) (v : PerPort PortState), f (s.withPorts v) = (f s).withPorts v) (s : State) :
    (f s).ports = s.ports := by
  have h' := h s s.ports
  have hs : s.withPorts s.ports = s := rfl
  rw [hs] at h'
  rw [h']
  rfl

@[simp] theorem State.ports_releaseLine (s : State) : s.releaseLine.ports = s.ports :=
  State.ports_of_commutes State.releaseLine_withPorts s

@[simp] theorem State.ports_leave (s : State) (w : Leaving) (x : SetRecord) : (s.leave w x).ports = s.ports :=
  State.ports_of_commutes (f := fun s => s.leave w x) (fun s v => State.leave_withPorts s v w x) s

@[simp] theorem State.ports_crossSet (s : State) (n old new : Nat) : (s.crossSet n old new).ports = s.ports :=
  State.ports_of_commutes (f := fun s => s.crossSet n old new)
    (fun s v => State.crossSet_withPorts s v n old new) s

@[simp] theorem State.ports_purge (s : State) (l : List SetRecord) :
    (l.foldl (fun t x => t.leave .purge x) s).ports = s.ports :=
  State.ports_of_commutes (f := fun s => l.foldl (fun t x => t.leave .purge x) s)
    (State.foldl_withPorts _ (fun s v x => State.leave_withPorts s v .purge x) l) s

/-! ### Line control -/

/-- What handing a cause over does to the line state (R146, R147). -/
theorem LineControl.handCause_cases (l : LineControl) (c : Cause) :
    (l.state = .run ∧ l.handCause c = { l with state := .halt .run, causes := l.causes.add c, lstop := true }) ∨
    (l.state = .drain ∧ l.handCause c = { l with state := .halt .drain, causes := l.causes.add c, lstop := true }) ∨
    ((∃ r, l.state = .halt r) ∧ l.handCause c = { l with causes := l.causes.add c }) ∨
    ((l.state = .unconfigured ∨ l.state = .idle) ∧ l.handCause c = l) := by
  cases h : l.state <;> simp [LineControl.handCause, h]

/-- A cause touches no latch. -/
@[simp] theorem LineControl.jobDone_handCause (l : LineControl) (c : Cause) : (l.handCause c).jobDone = l.jobDone := by
  cases h : l.state <;> simp [LineControl.handCause, h]

@[simp] theorem LineControl.storeEnd_handCause (l : LineControl) (c : Cause) :
    (l.handCause c).storeEnd = l.storeEnd := by
  cases h : l.state <;> simp [LineControl.handCause, h]

/-! ### Settling and leaving -/

/-- The blocks that no leaving touches. -/
structure State.SameOutside (s t : State) : Prop where
  position : t.position = s.position
  store : t.store = s.store
  ports : t.ports = s.ports
  pending : t.pending = s.pending
  stations : t.tracker.stations = s.tracker.stations
  lineConfig : t.tracker.lineConfig = s.tracker.lineConfig
  nextNumber : t.tracker.nextNumber = s.tracker.nextNumber
  lastOpened : t.tracker.lastOpened = s.tracker.lastOpened
  die : t.plan.die = s.plan.die
  jobCounter : t.plan.jobCounter = s.plan.jobCounter
  rules : t.verdict.rules = s.verdict.rules
  readPointer : t.verdict.readPointer = s.verdict.readPointer

theorem State.SameOutside.refl (s : State) : s.SameOutside s := ⟨rfl, rfl, rfl, rfl, rfl, rfl, rfl, rfl, rfl, rfl, rfl, rfl⟩

theorem State.SameOutside.trans {s t u : State} (h : s.SameOutside t) (k : t.SameOutside u) : s.SameOutside u :=
  ⟨k.1.trans h.1, k.2.trans h.2, k.3.trans h.3, k.4.trans h.4, k.5.trans h.5, k.6.trans h.6, k.7.trans h.7,
   k.8.trans h.8, k.9.trans h.9, k.10.trans h.10, k.11.trans h.11, k.12.trans h.12⟩

theorem State.sameOutside_handCause (s : State) (c : Cause) : s.SameOutside (s.handCause c) :=
  ⟨rfl, rfl, rfl, rfl, rfl, rfl, rfl, rfl, rfl, rfl, rfl, rfl⟩

theorem State.sameOutside_updateSet (s : State) (n : Nat) (f : SetRecord → SetRecord) :
    s.SameOutside (s.updateSet n f) := ⟨rfl, rfl, rfl, rfl, rfl, rfl, rfl, rfl, rfl, rfl, rfl, rfl⟩

theorem State.sameOutside_removeSet (s : State) (n : Nat) : s.SameOutside (s.removeSet n) :=
  ⟨rfl, rfl, rfl, rfl, rfl, rfl, rfl, rfl, rfl, rfl, rfl, rfl⟩

theorem State.sameOutside_setSlot (s : State) (i : SlotId) (x : PlanSlot) : s.SameOutside (s.setSlot i x) :=
  ⟨rfl, rfl, rfl, rfl, rfl, rfl, rfl, rfl, by simp, by simp, rfl, rfl⟩

theorem State.sameOutside_countOutlet (s : State) (i : SlotId) (o : Outlet) : s.SameOutside (s.countOutlet i o) := by
  unfold State.countOutlet
  simp only []
  split
  · exact (State.sameOutside_setSlot s i _).trans ⟨rfl, rfl, rfl, rfl, rfl, rfl, rfl, rfl, rfl, rfl, rfl, rfl⟩
  · exact State.sameOutside_setSlot s i _

theorem State.sameOutside_countRun (s : State) (o : Outlet) : s.SameOutside (s.countRun o) := by
  cases o <;> simp only [State.countRun] <;> (try split) <;>
    exact ⟨rfl, rfl, rfl, rfl, rfl, rfl, rfl, rfl, rfl, rfl, rfl, rfl⟩

theorem State.sameOutside_settle (s : State) (w : Leaving) (x : SetRecord) : s.SameOutside (s.settle w x) := by
  have h := (State.sameOutside_countOutlet s x.slot (outletAtLeaving w x)).trans
    (State.sameOutside_countRun _ (outletAtLeaving w x))
  exact h.trans ⟨rfl, rfl, rfl, rfl, rfl, rfl, rfl, rfl, rfl, rfl, rfl, rfl⟩

theorem State.sameOutside_releaseLine (s : State) : s.SameOutside s.releaseLine := by
  unfold State.releaseLine
  split <;> exact ⟨rfl, rfl, rfl, rfl, rfl, rfl, rfl, rfl, rfl, rfl, rfl, rfl⟩

/-- What leaving the queue leaves alone. -/
theorem State.sameOutside_leave (s : State) (w : Leaving) (x : SetRecord) : s.SameOutside (s.leave w x) :=
  (((State.sameOutside_settle s w x).trans (State.sameOutside_removeSet _ _)).trans
    (State.sameOutside_setSlot _ _ _)).trans (State.sameOutside_releaseLine _)

theorem State.sameOutside_leaveNumber (s : State) (w : Leaving) (n : Nat) : s.SameOutside (s.leaveNumber w n) := by
  unfold State.leaveNumber
  split
  · exact .refl s
  · exact State.sameOutside_leave s w _

theorem State.queue_countRun (s : State) (o : Outlet) : (s.countRun o).tracker = s.tracker := by
  cases o <;> simp only [State.countRun] <;> (try split) <;> rfl

theorem State.tracker_countOutlet (s : State) (i : SlotId) (o : Outlet) : (s.countOutlet i o).tracker = s.tracker := by
  unfold State.countOutlet
  simp only []
  split <;> rfl

/-- Settling does not touch the set tracker (R134). -/
@[simp] theorem State.tracker_settle (s : State) (w : Leaving) (x : SetRecord) : (s.settle w x).tracker = s.tracker := by
  simp only [State.settle, State.queue_countRun, State.tracker_countOutlet]

@[simp] theorem State.tracker_releaseLine (s : State) : s.releaseLine.tracker = s.tracker := by
  unfold State.releaseLine
  split <;> rfl

/-- A set that leaves is removed from its place, and the others keep their order (R16, R33). -/
@[simp] theorem State.tracker_leave (s : State) (w : Leaving) (x : SetRecord) :
    (s.leave w x).tracker =
      { s.tracker with queue := s.tracker.queue.filter fun y => y.number ≠ x.number } := by
  simp only [State.leave, State.tracker_releaseLine, State.tracker_releaseSlot, State.removeSet,
    State.tracker_settle]

/-! ### Crossings -/

theorem State.sameOutside_raiseMiss (s : State) (p : StationPort) : s.SameOutside (s.raiseMiss p) := by
  unfold State.raiseMiss
  simp only []
  split <;> exact ⟨rfl, rfl, rfl, rfl, rfl, rfl, rfl, rfl, rfl, rfl, rfl, rfl⟩

theorem State.sameOutside_missCrossing (s : State) (p : StationPort) (r : StationRole) (n : Nat) :
    s.SameOutside (s.missCrossing p r n) := by
  unfold State.missCrossing
  split
  · simp only []
    split
    · exact ((State.sameOutside_updateSet s n _).trans (State.sameOutside_raiseMiss _ p)).trans
        (State.sameOutside_handCause _ _)
    · exact (State.sameOutside_updateSet s n _).trans (State.sameOutside_raiseMiss _ p)
  · exact .refl s

theorem State.sameOutside_closeCrossing (s : State) (r : StationRole) (n : Nat) :
    s.SameOutside (s.closeCrossing r n) := by
  unfold State.closeCrossing
  split
  · simp only []
    split
    · exact (State.sameOutside_updateSet s n _).trans (State.sameOutside_handCause _ _)
    · exact State.sameOutside_updateSet s n _
  · exact .refl s

theorem State.sameOutside_ite {s t u : State} {c : Prop} [Decidable c] (ht : s.SameOutside t) (hu : s.SameOutside u) :
    s.SameOutside (if c then t else u) := by
  by_cases h : c
  · rw [if_pos h]; exact ht
  · rw [if_neg h]; exact hu

theorem State.sameOutside_stationCrossings (s : State) (n old new : Nat) (p : StationPort) :
    s.SameOutside (s.stationCrossings n old new p) := by
  unfold State.stationCrossings
  split
  · exact .refl s
  · exact (State.sameOutside_ite (State.sameOutside_missCrossing s p _ n) (.refl s)).trans
      (State.sameOutside_ite (State.sameOutside_closeCrossing _ _ n) (.refl _))

theorem State.sameOutside_foldl {α : Type} (f : State → α → State) (h : ∀ (s : State) (a : α), s.SameOutside (f s a))
    (l : List α) : ∀ s : State, s.SameOutside (l.foldl f s) := by
  induction l with
  | nil => exact fun s => .refl s
  | cons a l ih => exact fun s => (h s a).trans (ih (f s a))

/-- What the crossings of one set leave alone. -/
theorem State.sameOutside_crossSet (s : State) (n old new : Nat) : s.SameOutside (s.crossSet n old new) := by
  have h := State.sameOutside_foldl (fun t p => t.stationCrossings n old new p)
    (fun t p => State.sameOutside_stationCrossings t n old new p) stationPorts s
  exact h.trans (State.sameOutside_ite (State.sameOutside_leaveNumber _ _ n) (.refl _))

theorem State.sameOutside_crossAtStep (before after : Position) (s : State) (n : Nat) :
    s.SameOutside (State.crossAtStep before after s n) := by
  unfold State.crossAtStep
  split
  · exact .refl s
  · exact State.sameOutside_crossSet s n _ _

/-- What the crossings of a step of T leave alone. -/
theorem State.sameOutside_offerCrossings (s : State) (before after : Position) :
    s.SameOutside (s.offerCrossings before after) :=
  State.sameOutside_foldl _ (State.sameOutside_crossAtStep before after) _ s

end Sys2Proof.Machine
end

