-- ==== Sys2Proof/Laws/Requests.lean ====
section
/-! SUPPORT. The blocks that act on a request do not see the ports, so the effect of a request that is taken is its
effect on the state before the taking, followed by the reply. -/

namespace Sys2Proof.Machine

/-! ### Reads that do not see the ports -/

@[simp] theorem State.position_withPorts (s : State) (v : PerPort PortState) : (s.withPorts v).position = s.position :=
  rfl
@[simp] theorem State.tracker_withPorts (s : State) (v : PerPort PortState) : (s.withPorts v).tracker = s.tracker := rfl
@[simp] theorem State.plan_withPorts (s : State) (v : PerPort PortState) : (s.withPorts v).plan = s.plan := rfl
@[simp] theorem State.verdict_withPorts (s : State) (v : PerPort PortState) : (s.withPorts v).verdict = s.verdict := rfl
@[simp] theorem State.store_withPorts (s : State) (v : PerPort PortState) : (s.withPorts v).store = s.store := rfl
@[simp] theorem State.line_withPorts (s : State) (v : PerPort PortState) : (s.withPorts v).line = s.line := rfl
@[simp] theorem State.station_withPorts (s : State) (v : PerPort PortState) (p : StationPort) :
    (s.withPorts v).station p = s.station p := rfl
@[simp] theorem State.gatheringSet_withPorts (s : State) (v : PerPort PortState) :
    (s.withPorts v).gatheringSet = s.gatheringSet := rfl
@[simp] theorem State.missingSet_withPorts (s : State) (v : PerPort PortState) (n : Nat) :
    (s.withPorts v).missingSet n = s.missingSet n := rfl
@[simp] theorem State.slotRecipe_withPorts (s : State) (v : PerPort PortState) (i : SlotId) :
    (s.withPorts v).slotRecipe i = s.slotRecipe i := rfl
@[simp] theorem State.isCrowded_withPorts (s : State) (v : PerPort PortState) (n : Nat) (e : Position) :
    (s.withPorts v).isCrowded n e = s.isCrowded n e := rfl
@[simp] theorem State.workFor_withPorts (s : State) (v : PerPort PortState) (r : StationRole) (x : SetRecord) :
    (s.withPorts v).workFor r x = s.workFor r x := by cases r <;> rfl
@[simp] theorem State.setSlot_withPorts (s : State) (v : PerPort PortState) (i : SlotId) (x : PlanSlot) :
    (s.withPorts v).setSlot i x = (s.setSlot i x).withPorts v := rfl
@[simp] theorem State.clearMiss_withPorts (s : State) (v : PerPort PortState) (p : StationPort) :
    (s.withPorts v).clearMiss p = (s.clearMiss p).withPorts v := rfl

/-- A block's reply on a state with other ports. -/
def Reply.withPorts (r : Reply) (v : PerPort PortState) : Reply := (r.1.withPorts v, r.2)

theorem Reply.withPorts_ite (r q : Reply) (v : PerPort PortState) (c : Prop) [Decidable c] :
    Reply.withPorts (if c then r else q) v = if c then Reply.withPorts r v else Reply.withPorts q v := by
  by_cases h : c
  · rw [if_pos h, if_pos h]
  · rw [if_neg h, if_neg h]

/-- Two branches that agree up to the ports agree so whichever is taken. -/
theorem Reply.ite_withPorts {r q r' q' : Reply} {v : PerPort PortState} {c : Prop} [Decidable c]
    (hr : r' = Reply.withPorts r v) (hq : q' = Reply.withPorts q v) :
    (if c then r' else q') = Reply.withPorts (if c then r else q) v := by rw [Reply.withPorts_ite, hr, hq]

/-- The effect of a request that is taken, for a block that does not see the ports. -/
theorem takeRequest_answered {α : Type} {p : Port} {kind : Byte} {parse : List Byte → Option α}
    {act : α → Position → State → Reply} {s : State} {payload : List Byte} {capture : Position} {rest : List Frame}
    {a : α} (h : s.Taking p ⟨kind, payload, capture⟩ rest) (hp : parse payload = some a)
    (hc : ∀ (s : State) (v : PerPort PortState), act a capture (s.withPorts v) = Reply.withPorts (act a capture s) v) :
    takeRequest p kind parse act s =
      .next ((act a capture s).1.reply p ⟨kind, payload, capture⟩ rest (act a capture s).2) := by
  refine takeRequest_reply h hp ?_
  have hports : (act a capture s).1.ports = s.ports := by
    have h' := hc s s.ports
    rw [show s.withPorts s.ports = s from rfl] at h'
    rw [h']
    rfl
  rw [State.withoutFrame_eq, hc, State.withoutFrame_eq]
  simp only [Reply.withPorts, State.port, hports]

/-- The effect of a supervisor request that is taken, for a block that does not see the ports. -/
theorem takeSupervisor_answered {α : Type} {kind : Byte} {parse : List Byte → Option α} {act : α → State → Reply}
    {s : State} {payload : List Byte} {capture : Position} {rest : List Frame} {a : α}
    (h : s.Taking .supervisor ⟨kind, payload, capture⟩ rest) (hp : parse payload = some a)
    (hc : ∀ (s : State) (v : PerPort PortState), act a (s.withPorts v) = Reply.withPorts (act a s) v) :
    takeSupervisor kind parse act s =
      .next ((act a s).1.reply .supervisor ⟨kind, payload, capture⟩ rest (act a s).2) :=
  takeRequest_answered (act := fun a _ t => act a t) h hp hc

/-- The effect of a collator request that is taken on the collator's port. -/
theorem takeCollator_answered {α : Type} {p : StationPort} {kind : Byte} {parse : List Byte → Option α}
    {act : α → Position → State → Reply} {s : State} {payload : List Byte} {capture : Position} {rest : List Frame}
    {a : α} (h : s.Taking (.station p) ⟨kind, payload, capture⟩ rest) (hp : parse payload = some a)
    (hr : (s.station p).role = .collator)
    (hc : ∀ (s : State) (v : PerPort PortState), act a capture (s.withPorts v) = Reply.withPorts (act a capture s) v) :
    takeCollator p kind parse act s =
      .next ((act a capture s).1.reply (.station p) ⟨kind, payload, capture⟩ rest (act a capture s).2) := by
  have h' := takeRequest_answered (act := fun a c t =>
    if (t.station p).role = .collator then act a c t else (t, Answer.bare .role)) h hp (by
      intro s v
      simp only [State.station_withPorts, hc, Reply.withPorts_ite]
      rfl)
  simp only [hr, if_true] at h'
  exact h'

/-- A collator request on another port is answered ROLE (R168). -/
theorem takeCollator_otherRole {α : Type} {p : StationPort} {kind : Byte} {parse : List Byte → Option α}
    {act : α → Position → State → Reply} {s : State} {payload : List Byte} {capture : Position} {rest : List Frame}
    {a : α} (h : s.Taking (.station p) ⟨kind, payload, capture⟩ rest) (hp : parse payload = some a)
    (hr : (s.station p).role ≠ .collator) :
    takeCollator p kind parse act s =
      .next (s.reply (.station p) ⟨kind, payload, capture⟩ rest (.bare .role)) := by
  have hw : ((s.withoutFrame (.station p) rest).station p).role ≠ .collator := hr
  have h' := takeRequest_taken (act := fun a c t =>
    if (t.station p).role = .collator then act a c t else (t, Answer.bare .role)) h hp
  simp only [hw, if_false] at h'
  rw [State.reply_eq (f := ⟨kind, payload, capture⟩)] at h'
  exact h'

/-! ### The supervisor's requests -/

theorem revalidate_withPorts (s : State) (v : PerPort PortState) :
    (s.withPorts v).revalidate = Reply.withPorts s.revalidate v := rfl

theorem setLineRequest_withPorts (c : LineConfig) (s : State) (v : PerPort PortState) :
    setLineRequest c (s.withPorts v) = Reply.withPorts (setLineRequest c s) v := by
  refine Reply.ite_withPorts rfl ?_
  cases h : lineConfigFailure c <;> rfl

theorem examineStaged_withPorts (s : State) (v : PerPort PortState) :
    (s.withPorts v).examineStaged = s.examineStaged.withPorts v := by
  unfold State.examineStaged
  rw [State.withPorts_ite]
  rfl

theorem setStationRequest_withPorts (c : StationParams) (s : State) (v : PerPort PortState) :
    setStationRequest c (s.withPorts v) = Reply.withPorts (setStationRequest c s) v := by
  have hw : ∀ p e, (s.withPorts v).writeStation p e = (s.writeStation p e).withPorts v := fun _ _ => rfl
  refine Reply.ite_withPorts rfl ?_
  cases stationOfNumber c.port with
  | none => rfl
  | some p =>
    cases roleOfByte c.role with
    | none => rfl
    | some role =>
      simp only [setStationChecked, hw, examineStaged_withPorts, revalidate_withPorts]
      split <;> rfl

theorem setDieRequest_withPorts (d : Die) (s : State) (v : PerPort PortState) :
    setDieRequest d (s.withPorts v) = Reply.withPorts (setDieRequest d s) v := by
  refine Reply.ite_withPorts rfl ?_
  cases h : dieFailure d <;> rfl

theorem setRulesRequest_withPorts (c : Nat × List RuleParams) (s : State) (v : PerPort PortState) :
    setRulesRequest c (s.withPorts v) = Reply.withPorts (setRulesRequest c s) v := by
  refine Reply.ite_withPorts rfl ?_
  cases h : checkRules 1 c.2 <;> rfl

theorem storeRequest_withPorts (c : Nat × Recipe) (s : State) (v : PerPort PortState) :
    storeRequest c (s.withPorts v) = Reply.withPorts (storeRequest c s) v := by
  unfold storeRequest
  split
  · rfl
  · split
    · rfl
    · exact Reply.ite_withPorts rfl rfl

theorem eraseRequest_withPorts (n : Nat) (s : State) (v : PerPort PortState) :
    eraseRequest n (s.withPorts v) = Reply.withPorts (eraseRequest n s) v := by
  unfold eraseRequest
  split
  · rfl
  · exact Reply.ite_withPorts rfl rfl

theorem readRecipeRequest_withPorts (n : Nat) (s : State) (v : PerPort PortState) :
    readRecipeRequest n (s.withPorts v) = Reply.withPorts (readRecipeRequest n s) v := by
  unfold readRecipeRequest
  split
  · rfl
  · refine Reply.ite_withPorts rfl ?_
    simp only [State.store_withPorts]
    split <;> rename_i h <;> simp only [h] <;> rfl

theorem stageInto_withPorts (s : State) (v : PerPort PortState) (i : SlotId) (r : Recipe) (source : Source) :
    (s.withPorts v).stageInto i r source = Reply.withPorts (s.stageInto i r source) v := by
  simp only [State.stageInto, State.plan_withPorts, State.tracker_withPorts, State.setSlot_withPorts]
  split <;> rfl

theorem stageStoreSlot_withPorts (n : Nat) (i : Fin 16) (s : State) (v : PerPort PortState) :
    stageStoreSlot n i (s.withPorts v) = Reply.withPorts (stageStoreSlot n i s) v := by
  simp only [stageStoreSlot, State.plan_withPorts]
  split
  · rfl
  · refine Reply.ite_withPorts rfl ?_
    simp only [State.store_withPorts, stageInto_withPorts]
    split <;> rename_i h <;> simp only [h] <;> rfl

theorem stageRequest_withPorts (n : Nat) (s : State) (v : PerPort PortState) :
    stageRequest n (s.withPorts v) = Reply.withPorts (stageRequest n s) v := by
  refine Reply.ite_withPorts rfl ?_
  cases storeSlotOfNumber n with
  | none => rfl
  | some i => exact stageStoreSlot_withPorts n i s v

theorem stageInlineRequest_withPorts (r : Recipe) (s : State) (v : PerPort PortState) :
    stageInlineRequest r (s.withPorts v) = Reply.withPorts (stageInlineRequest r s) v := by
  refine Reply.ite_withPorts rfl ?_
  simp only [State.plan_withPorts, stageInto_withPorts]
  split <;> rfl

theorem discardRequest_withPorts (u : Unit) (s : State) (v : PerPort PortState) :
    discardRequest u (s.withPorts v) = Reply.withPorts (discardRequest u s) v := by
  simp only [discardRequest, State.plan_withPorts, State.setSlot_withPorts]
  split <;> rfl

theorem changeoverRequest_withPorts (u : Unit) (s : State) (v : PerPort PortState) :
    changeoverRequest u (s.withPorts v) = Reply.withPorts (changeoverRequest u s) v := by
  refine Reply.ite_withPorts rfl ?_
  simp only [State.plan_withPorts]
  split <;> rfl

theorem endJobRequest_withPorts (u : Unit) (s : State) (v : PerPort PortState) :
    endJobRequest u (s.withPorts v) = Reply.withPorts (endJobRequest u s) v := by
  have h := State.releaseLine_withPorts { s with line := { s.line with state := .drain } } v
  cases hl : s.line.state <;> simp only [endJobRequest, State.line_withPorts, hl] <;> first
    | rfl
    | exact congrArg (fun t => (t, Answer.bare .ok)) h

theorem stopRequest_withPorts (u : Unit) (s : State) (v : PerPort PortState) :
    stopRequest u (s.withPorts v) = Reply.withPorts (stopRequest u s) v := by
  cases hl : s.line.state <;> simp only [stopRequest, State.line_withPorts, hl] <;> rfl

theorem leaveHalt_withPorts (s : State) (v : PerPort PortState) (ret : ReturnState) :
    (s.withPorts v).leaveHalt ret = (s.leaveHalt ret).withPorts v :=
  State.releaseLine_withPorts
    { s with
      line := { s.line with state := lineStateOfReturn ret, causes := {}, lstop := false }
      verdict := { s.verdict with rejectRun := 0 } } v

theorem resumeRequest_withPorts (u : Unit) (s : State) (v : PerPort PortState) :
    resumeRequest u (s.withPorts v) = Reply.withPorts (resumeRequest u s) v := by
  cases hl : s.line.state <;> simp only [resumeRequest, State.line_withPorts, hl, leaveHalt_withPorts] <;> rfl

theorem purgeRequest_withPorts (u : Unit) (s : State) (v : PerPort PortState) :
    purgeRequest u (s.withPorts v) = Reply.withPorts (purgeRequest u s) v := by
  have h := State.foldl_withPorts (fun t x => t.leave .purge x) (fun s v x => State.leave_withPorts s v .purge x)
    s.tracker.queue s v
  exact Reply.ite_withPorts (congrArg (fun t => (t, (⟨.ok, be1 s.tracker.queue.length⟩ : Answer))) h) rfl

theorem markSampleRequest_withPorts (n : Nat) (s : State) (v : PerPort PortState) :
    markSampleRequest n (s.withPorts v) = Reply.withPorts (markSampleRequest n s) v := by
  simp only [markSampleRequest, State.findSet_withPorts, State.updateSet_withPorts]
  split
  · rfl
  · exact Reply.ite_withPorts rfl rfl

theorem readSetRequest_withPorts (n : Nat) (s : State) (v : PerPort PortState) :
    readSetRequest n (s.withPorts v) = Reply.withPorts (readSetRequest n s) v := by
  simp only [readSetRequest, State.findSet_withPorts, State.position_withPorts]
  split <;> rfl

theorem readPlanRequest_withPorts (n : Nat) (s : State) (v : PerPort PortState) :
    readPlanRequest n (s.withPorts v) = Reply.withPorts (readPlanRequest n s) v := by
  simp only [readPlanRequest, State.plan_withPorts]
  split
  · rfl
  · split <;> rfl

theorem readHistoryRequest_withPorts (u : Unit) (s : State) (v : PerPort PortState) :
    readHistoryRequest u (s.withPorts v) = Reply.withPorts (readHistoryRequest u s) v := by
  refine Reply.ite_withPorts rfl (Reply.ite_withPorts ?_ ?_) <;> simp only [State.verdict_withPorts]
  · cases s.verdict.pointed <;> rfl
  · cases s.verdict.history.head? <;> rfl

theorem rewindRequest_withPorts (u : Unit) (s : State) (v : PerPort PortState) :
    rewindRequest u (s.withPorts v) = Reply.withPorts (rewindRequest u s) v := rfl

/-! ### The collator's requests -/

theorem openRequest_withPorts (u : Unit) (c : Position) (s : State) (v : PerPort PortState) :
    openRequest u c (s.withPorts v) = Reply.withPorts (openRequest u c s) v := by
  refine Reply.ite_withPorts rfl (Reply.ite_withPorts rfl (Reply.ite_withPorts rfl ?_))
  simp only [State.plan_withPorts]
  split
  · rfl
  · exact Reply.ite_withPorts rfl rfl

theorem sheetRequest_withPorts (c : SheetParams) (q : Position) (s : State) (v : PerPort PortState) :
    sheetRequest c q (s.withPorts v) = Reply.withPorts (sheetRequest c q s) v := by
  simp only [sheetRequest, State.findSet_withPorts]
  split
  · rfl
  · exact Reply.ite_withPorts rfl (Reply.ite_withPorts rfl (Reply.ite_withPorts rfl (Reply.ite_withPorts rfl rfl)))

theorem closeRecord_withPorts (s : State) (v : PerPort PortState) (x : SetRecord) (e : Position) :
    (s.withPorts v).closeRecord x e = (s.closeRecord x e).withPorts v := by
  simp only [State.closeRecord, State.slotRecipe_withPorts, State.isCrowded_withPorts, State.updateSet_withPorts,
    State.position_withPorts, State.crossSet_withPorts]

theorem closeRequest_withPorts (n : Nat) (c : Position) (s : State) (v : PerPort PortState) :
    closeRequest n c (s.withPorts v) = Reply.withPorts (closeRequest n c s) v := by
  simp only [closeRequest, State.findSet_withPorts, closeRecord_withPorts]
  split
  · rfl
  · exact Reply.ite_withPorts rfl (Reply.ite_withPorts rfl rfl)

theorem abandonRequest_withPorts (n : Nat) (c : Position) (s : State) (v : PerPort PortState) :
    abandonRequest n c (s.withPorts v) = Reply.withPorts (abandonRequest n c s) v := by
  simp only [abandonRequest, State.findSet_withPorts, State.leave_withPorts]
  split
  · rfl
  · exact Reply.ite_withPorts rfl rfl

/-! ### The stations' requests -/

theorem matchEdge_withPorts (s : State) (v : PerPort PortState) (p : StationPort) (r : StationRole) (x : SetRecord) :
    (s.withPorts v).matchEdge p r x = Reply.withPorts (s.matchEdge p r x) v := by
  simp only [State.matchEdge, State.clearMiss_withPorts, State.updateSet_withPorts, State.workFor_withPorts]
  exact Reply.ite_withPorts rfl rfl

theorem testReport_withPorts (s : State) (v : PerPort PortState) (p : StationPort) (valid : StationRole → Bool) (n : Nat)
    (act act' : SetRecord → StationRole → Reply) (h : ∀ x r, act' x r = Reply.withPorts (act x r) v) :
    (s.withPorts v).testReport p valid n act' = Reply.withPorts (s.testReport p valid n act) v := by
  simp only [State.testReport, State.findSet_withPorts, State.station_withPorts, h]
  split
  · rfl
  · split
    · rfl
    · refine Reply.ite_withPorts rfl ?_
      split <;> rfl

theorem liftRequest_withPorts (p : StationPort) (c : Nat × Nat) (q : Position) (s : State) (v : PerPort PortState) :
    liftRequest p c q (s.withPorts v) = Reply.withPorts (liftRequest p c q s) v :=
  testReport_withPorts s v p _ c.1 _ _ fun _ _ => Reply.ite_withPorts rfl rfl

theorem doneRequest_withPorts (p : StationPort) (n : Nat) (q : Position) (s : State) (v : PerPort PortState) :
    doneRequest p n q (s.withPorts v) = Reply.withPorts (doneRequest p n q s) v :=
  testReport_withPorts s v p _ n _ _ fun _ _ => rfl

theorem faultRequest_withPorts (p : StationPort) (c : Nat × Nat) (q : Position) (s : State) (v : PerPort PortState) :
    faultRequest p c q (s.withPorts v) = Reply.withPorts (faultRequest p c q s) v :=
  Reply.ite_withPorts rfl (testReport_withPorts s v p _ c.1 _ _ fun _ _ => rfl)

theorem divertSet_withPorts (s : State) (v : PerPort PortState) (n : Nat) (x : SetRecord) (o : GateOutlet) :
    (s.withPorts v).divertSet n x o = (s.divertSet n x o).withPorts v := by
  simp only [State.divertSet, State.updateSet_withPorts, State.handCause_withPorts, State.withPorts_ite]

theorem divertedRequest_withPorts (p : StationPort) (c : Nat × Nat) (q : Position) (s : State)
    (v : PerPort PortState) : divertedRequest p c q (s.withPorts v) = Reply.withPorts (divertedRequest p c q s) v := by
  unfold divertedRequest
  split
  · rfl
  · refine testReport_withPorts s v p _ c.1 _ _ fun x r => ?_
    rw [divertSet_withPorts]
    rfl

end Sys2Proof.Machine
end

