-- ==== Sys2Proof/Laws/Wire.lean ====
section
/-! SUPPORT. Fields read back from the bytes that carry them: byte order, the payloads of the requests, the recipe. -/

namespace Sys2Proof.Machine

/-! ### Fields -/

@[simp] theorem length_be1 (n : Nat) : (be1 n).length = 1 := rfl
@[simp] theorem length_be2 (n : Nat) : (be2 n).length = 2 := rfl
@[simp] theorem length_be3 (n : Nat) : (be3 n).length = 3 := rfl
@[simp] theorem length_be4 (n : Nat) : (be4 n).length = 4 := rfl

theorem fromBytes_be1 {n : Nat} (h : n < 256) : fromBytes (be1 n) = n := by
  simp only [fromBytes, be1, List.foldl_cons, List.foldl_nil, BitVec.toNat_ofNat]
  omega

theorem fromBytes_be2 {n : Nat} (h : n < 65536) : fromBytes (be2 n) = n := by
  simp only [fromBytes, be2, List.foldl_cons, List.foldl_nil, BitVec.toNat_ofNat]
  omega

theorem fromBytes_be3 {n : Nat} (h : n < 16777216) : fromBytes (be3 n) = n := by
  simp only [fromBytes, be3, be2, List.foldl_cons, List.foldl_nil, BitVec.toNat_ofNat]
  omega

/-- A field that starts where the bytes before it end. -/
theorem fieldAt_append {bs cs ds : List Byte} {offset width : Nat} (ho : bs.length = offset) (hw : cs.length = width) :
    fieldAt (bs ++ (cs ++ ds)) offset width = fromBytes cs := by
  subst ho; subst hw
  simp [fieldAt]

/-! ### Payloads -/

theorem parseByte_be1 {n : Nat} (h : n < 256) : parseByte (be1 n) = some n := by
  simp only [parseByte, be1, BitVec.toNat_ofNat, Option.some.injEq]
  omega

theorem parseSet_be2 {n : Nat} (h : n < 65536) : parseSet (be2 n) = some n := by
  show some (fromBytes (be2 n)) = some n
  rw [fromBytes_be2 h]

theorem parseSetByte_bytes {n k : Nat} (h : n < 65536) (hk : k < 256) :
    parseSetByte (be2 n ++ be1 k) = some (n, k) := by
  show some (fromBytes (be2 n), (BitVec.ofNat 8 k).toNat) = some (n, k)
  rw [fromBytes_be2 h, BitVec.toNat_ofNat, Nat.mod_eq_of_lt hk]

theorem parseSheet_bytes {n i c : Nat} (h : n < 65536) (hi : i < 256) (hc : c < 65536) :
    parseSheet (be2 n ++ be1 i ++ be2 c) = some ⟨n, i, c % 4096⟩ := by
  show some (⟨fromBytes (be2 n), (BitVec.ofNat 8 i).toNat, fromBytes (be2 c) % 4096⟩ : SheetParams) = _
  rw [fromBytes_be2 h, fromBytes_be2 hc, BitVec.toNat_ofNat, Nat.mod_eq_of_lt hi]

theorem parseSetLine_bytes {c : LineConfig} (hd : c.divider < 256) (hr : c.reverseLimit < 65536)
    (hs : c.spacing < 65536) (hj : c.rejectLimit < 256) :
    parseSetLine (be1 c.divider ++ be2 c.reverseLimit ++ be2 c.spacing ++ be1 c.rejectLimit) = some c := by
  show some (⟨(BitVec.ofNat 8 c.divider).toNat, fromBytes (be2 c.reverseLimit), fromBytes (be2 c.spacing),
    (BitVec.ofNat 8 c.rejectLimit).toNat⟩ : LineConfig) = some c
  rw [fromBytes_be2 hr, fromBytes_be2 hs, BitVec.toNat_ofNat, BitVec.toNat_ofNat, Nat.mod_eq_of_lt hd,
    Nat.mod_eq_of_lt hj]

theorem parseSetStation_bytes {c : StationParams} (hp : c.port < 256) (hr : c.role < 256) (ha : c.arrive < 65536)
    (hz : c.close < 65536) (ht : c.tol < 65536) :
    parseSetStation (be1 c.port ++ be1 c.role ++ be2 c.arrive ++ be2 c.close ++ be2 c.tol) = some c := by
  show some (⟨(BitVec.ofNat 8 c.port).toNat, (BitVec.ofNat 8 c.role).toNat, fromBytes (be2 c.arrive),
    fromBytes (be2 c.close), fromBytes (be2 c.tol)⟩ : StationParams) = some c
  rw [fromBytes_be2 ha, fromBytes_be2 hz, fromBytes_be2 ht, BitVec.toNat_ofNat, BitVec.toNat_ofNat,
    Nat.mod_eq_of_lt hp, Nat.mod_eq_of_lt hr]

theorem parseSetDie_bytes {d : Die} (hp : d.pins < 256) (hq : d.pitch < 65536) (ho : d.offset < 65536)
    (ht : d.travel < 65536) : parseSetDie (dieBytes d) = some d := by
  show some (⟨(BitVec.ofNat 8 d.pins).toNat, fromBytes (be2 d.pitch), fromBytes (be2 d.offset),
    fromBytes (be2 d.travel)⟩ : Die) = some d
  rw [fromBytes_be2 hq, fromBytes_be2 ho, fromBytes_be2 ht, BitVec.toNat_ofNat, Nat.mod_eq_of_lt hp]

/-! ### Recipes -/

theorem length_sheetGroupBytes (g : SheetGroup) : (sheetGroupBytes g).length = 6 := rfl

theorem length_groupBytes (gs : List SheetGroup) : (gs.flatMap sheetGroupBytes).length = 6 * gs.length := by
  induction gs with
  | nil => rfl
  | cons g gs ih => simp only [List.flatMap_cons, List.length_append, ih, length_sheetGroupBytes, List.length_cons]; omega

theorem parseGroups_bytes (gs : List SheetGroup) (h : gs.all SheetGroup.fitsLayout = true) :
    parseGroups gs.length (gs.flatMap sheetGroupBytes) = gs := by
  induction gs with
  | nil => rfl
  | cons g gs ih =>
    simp only [List.all_cons, Bool.and_eq_true] at h
    obtain ⟨hg, hgs⟩ := h
    simp only [SheetGroup.fitsLayout, Bool.and_eq_true, decide_eq_true_eq] at hg
    obtain ⟨⟨⟨h1, h2⟩, h3⟩, h4⟩ := hg
    have hb : (g :: gs).flatMap sheetGroupBytes =
        be1 g.number ++ (be1 g.count ++ (be2 g.nominal ++ (be2 g.tolerance ++ gs.flatMap sheetGroupBytes))) := by
      simp only [List.flatMap_cons, sheetGroupBytes, List.append_assoc]
    have hd : ((g :: gs).flatMap sheetGroupBytes).drop 6 = gs.flatMap sheetGroupBytes := by
      rw [hb]; rfl
    rw [List.length_cons, parseGroups, hd, ih hgs, hb]
    congr 1
    show (⟨fromBytes (be1 g.number), fromBytes (be1 g.count), fromBytes (be2 g.nominal), fromBytes (be2 g.tolerance)⟩ :
      SheetGroup) = g
    rw [fromBytes_be1 h1, fromBytes_be1 h2, fromBytes_be2 h3, fromBytes_be2 h4]

/-- A recipe is read back from its bytes as it was laid out (R172). -/
theorem parseRecipe_recipeBytes {r : Recipe} (h : r.fitsLayout = true) : parseRecipe (recipeBytes r) = some r := by
  obtain ⟨name, edge, pitch, margin, style, gap, clear, dx, dy, cap, sheets, target, count, groups⟩ := r
  simp only [Recipe.fitsLayout, Recipe.fieldsFit, Bool.and_eq_true, decide_eq_true_eq, beq_iff_eq] at h
  obtain ⟨⟨⟨hn, h1⟩, hc⟩, hg⟩ := h
  obtain ⟨⟨⟨⟨⟨⟨⟨⟨⟨⟨⟨f1, f2⟩, f3⟩, f4⟩, f5⟩, f6⟩, f7⟩, f8⟩, f9⟩, f10⟩, f11⟩, f12⟩ := h1
  subst hc
  have b1 : ∀ n, fromBytes [BitVec.ofNat 8 n] = fromBytes (be1 n) := fun _ => rfl
  have b2 : ∀ n, fromBytes [BitVec.ofNat 8 (n / 256), BitVec.ofNat 8 n] = fromBytes (be2 n) := fun _ => rfl
  have b3 : ∀ n, fromBytes [BitVec.ofNat 8 (n / 65536), BitVec.ofNat 8 (n / 256), BitVec.ofNat 8 n] =
      fromBytes (be3 n) := fun _ => rfl
  have hpg := parseGroups_bytes groups hg
  have hgl := length_groupBytes groups
  have hname : ∀ bs offset width, 12 ≤ offset →
      fieldAt (name ++ bs) offset width = fieldAt bs (offset - 12) width := fun bs offset width ho => by
    unfold fieldAt
    rw [List.drop_append, hn, List.drop_eq_nil_of_le (by omega), List.nil_append]
  have htail : ∀ bs, (name ++ bs).drop 34 = bs.drop 22 := fun bs => by
    rw [List.drop_append, hn, List.drop_eq_nil_of_le (by omega), List.nil_append]
  have htake : ∀ bs, (name ++ bs).take 12 = name := fun bs => by
    rw [List.take_append, hn, List.take_of_length_le (by omega)]
    simp
  unfold parseRecipe recipeBytes
  generalize groups.flatMap sheetGroupBytes = tail at hgl hpg ⊢
  simp only [be1, be2, be3, List.cons_append, List.nil_append, List.append_assoc, hname _ _ _ (by omega : 12 ≤ 12),
    hname _ _ _ (by omega : 12 ≤ 14), hname _ _ _ (by omega : 12 ≤ 16), hname _ _ _ (by omega : 12 ≤ 18),
    hname _ _ _ (by omega : 12 ≤ 19), hname _ _ _ (by omega : 12 ≤ 21), hname _ _ _ (by omega : 12 ≤ 23),
    hname _ _ _ (by omega : 12 ≤ 25), hname _ _ _ (by omega : 12 ≤ 27), hname _ _ _ (by omega : 12 ≤ 29),
    hname _ _ _ (by omega : 12 ≤ 30), hname _ _ _ (by omega : 12 ≤ 33), htail, htake, List.length_append,
    List.length_cons, hn, hgl]
  simp only [fieldAt, Nat.reduceSub, List.drop_succ_cons, List.drop_zero, List.take_succ_cons, List.take_zero]
  simp only [b1, b2, b3, fromBytes_be2 f1, fromBytes_be2 f2, fromBytes_be2 f3, fromBytes_be1 f4, fromBytes_be2 f5,
    fromBytes_be2 f6, fromBytes_be2 f7, fromBytes_be2 f8, fromBytes_be2 f9, fromBytes_be1 f10, fromBytes_be3 f11,
    fromBytes_be1 f12, hpg]
  rw [if_pos ⟨by omega, by omega⟩]

theorem parseStore_bytes {n : Nat} {r : Recipe} (hn : n < 256) (h : r.fitsLayout = true) :
    parseStore (be1 n ++ recipeBytes r) = some (n, r) := by
  show (parseRecipe (recipeBytes r)).map (fun r => ((BitVec.ofNat 8 n).toNat, r)) = some (n, r)
  rw [parseRecipe_recipeBytes h, BitVec.toNat_ofNat, Nat.mod_eq_of_lt hn]
  rfl

end Sys2Proof.Machine
end

