-- ==== Sys2Proof/Tests/Slice0.lean ====
section
/-! SUPPORT. Small checks of the model: the ill-formed terms that the well-formedness check refuses, worked examples of
the manual, and for each statement a concrete state and operands that meet its hypotheses, clause by clause. -/

set_option Elab.async false

namespace Sys2Proof.Tests

open Sys2Proof.Machine

/-! ### States to test on -/

/-- The station table of section 6.4, step 9, with a drill at port 6. -/
def lineTable : PerStation Station :=
  ⟨⟨.collator, 0, 0, 0⟩, ⟨.station .punch, 400, 600, 20⟩, ⟨.station .notch, 1000, 1200, 20⟩,
    ⟨.station .binder, 1800, 2200, 30⟩, ⟨.station .gate, 3000, 3200, 40⟩, ⟨.station .drill, 1500, 1700, 60⟩⟩

/-- The recipe of sections 3.2 and 4.13. -/
def calendar : Recipe where
  name := List.replicate 12 0x41
  edge := 29700
  pitch := 847
  margin := 500
  styleCode := 1
  gapWidth := 3000
  gapClearance := 150
  drillX := 0
  drillY := 0
  liftCapacity := 1800
  liftSheets := 14
  target := 4
  groupCount := 3
  groups := [⟨1, 1, 300, 30⟩, ⟨2, 12, 160, 10⟩, ⟨3, 1, 1400, 40⟩]

/-- The die of section 4.13. -/
def die48 : Die := ⟨48, 847, 1200, 8000⟩

/-- The plan of section 4.13. -/
def calendarPlan : HolePlan :=
  match computePlan calendar (some die48) lineTable with
  | .ok p => p
  | .error _ => .absent

/-- The job of that recipe, with no set yet. -/
def calendarJob : Job := ⟨calendar, calendarPlan, .store 7, 4, 0, {}⟩

/-- A configured line in IDLE, with the die. -/
def idleLine : State :=
  { State.reset with
    tracker := { SetTracker.reset with stations := lineTable, lineConfig := ⟨2, 10, 2000, 3⟩ }
    plan := { PlanUnit.reset with die := some die48 }
    line := { LineControl.reset with state := .idle } }

/-- The line in RUN with slot A CURRENT under job 1. -/
def runLine : State :=
  { idleLine with
    plan := ⟨some die48, .current 1 calendarJob, .free, 2⟩
    line := { LineControl.reset with state := .run } }

/-- The state in another line state. -/
def inState (l : LineState) (s : State) : State := { s with line := { s.line with state := l } }

/-- The state with P and T at a position. -/
def atPosition (t : Position) (s : State) : State := { s with position := { s.position with raw := t, tracking := t } }

/-- The progress entries of an untouched set of the calendar. -/
def untouched : ProgressEntries := ⟨some .waiting, some .waiting, some .passing, some .waiting, some .waiting⟩

/-- A set that travels from `e` with the one sheet and lift. -/
def travelling (n : Nat) (e : Position) : SetRecord where
  number := n
  slot := .a
  state := .travelling e
  sheets := [⟨some 305, .ok, 305⟩]
  liftPlan := some [⟨0, 1, 305, false⟩]
  liftsDone := 0
  progress := untouched
  checks := {}
  commanded := none
  taken := none

/-- A set that gathers, with as many sheets as asked. -/
def gathering (n sheets : Nat) : SetRecord :=
  { travelling n 0 with state := .gathering, sheets := List.replicate sheets ⟨some 160, .ok, 160⟩, liftPlan := none }

/-- The line with sets of slot A in the queue. -/
def withSets (sets : List SetRecord) (s : State) : State :=
  { s with
    tracker := { s.tracker with queue := sets, lastOpened := some 9 }
    plan := { s.plan with
      slotA := s.plan.slotA.mapJob fun j => { j with inQueue := sets.length, counters := { j.counters with
        opened := BitVec.ofNat 32 sets.length } } } }

/-! ### Asking and answering -/

/-- The state with one more frame at the head of a port's buffer. -/
def asked (p : Port) (kind : Byte) (payload : List Byte) (s : State) : State :=
  s.updatePort p fun q => { q with buffer := ⟨kind, payload, s.position.tracking⟩ :: q.buffer }

/-- The state that a command leaves. -/
def ran : Result → Option State
  | .next t => some t
  | .fault _ => none
  | .refused _ => none

/-- The code and fields of the answer at the tail of a port's queue. -/
def answerOf (c : Instr) (p : Port) (s : State) : Option (List Nat) :=
  (ran (exec c s)).bind fun t => (t.port p).answers.getLast?.map fun bs => ((bs.drop 3).dropLast).map (·.toNat)

/-- Some state about to take a frame of the kind meets `P`. -/
def Meets (p : Port) (kind : Byte) (P : State → Frame → Prop) : Prop :=
  ∃ s f rest, s.Taking p f rest ∧ f.kind = kind ∧ P s f

theorem Meets.of {p : Port} {kind : Byte} {P : State → Frame → Prop} (s : State) (payload : List Byte)
    (room : (s.port p).answers.length < 4)
    (h : P (asked p kind payload s) ⟨kind, payload, s.position.tracking⟩) : Meets p kind P :=
  ⟨asked p kind payload s, _, (s.port p).buffer,
    ⟨by simp [asked], by simpa [asked] using room⟩, rfl, h⟩

@[simp] theorem port_atPosition (t : Position) (s : State) (p : Port) : (atPosition t s).port p = s.port p := rfl

/-- Every case of a list meets its `P`, with T gone on since the frame's lead byte came. -/
theorem Meets.eachBehind {α : Type} {p : Port} {kind : Byte} {P : α → State → Frame → Prop} (cases : List α) (s : State)
    (payload : List Byte) (t : α → Position) (room : (s.port p).answers.length < 4)
    (h : ∀ c ∈ cases, P c (atPosition (t c) (asked p kind payload s)) ⟨kind, payload, s.position.tracking⟩) :
    ∀ c ∈ cases, Meets p kind (P c) :=
  fun c m => ⟨atPosition (t c) (asked p kind payload s), _, (s.port p).buffer,
    ⟨by simp [asked], by simpa [asked] using room⟩, rfl, h c m⟩

/-- Every case of a list meets its `P`. -/
theorem Meets.each {α : Type} {p : α → Port} {kind : α → Byte} {P : α → State → Frame → Prop} (cases : List α)
    (s : α → State) (payload : α → List Byte)
    (h : ∀ c ∈ cases, ((s c).port (p c)).answers.length < 4 ∧
      P c (asked (p c) (kind c) (payload c) (s c)) ⟨kind c, payload c, (s c).position.tracking⟩) :
    ∀ c ∈ cases, Meets (p c) (kind c) (P c) :=
  fun c m => .of (s c) (payload c) (h c m).1 (h c m).2

/-! ### Well-formedness -/

theorem test_wellFormed_calendar : (Instr.programCycleEnd (.record calendar)).wellFormed = true := by decide

/-- One ill-formed record for each check, refused. -/
theorem test_wellFormed_refuses : ∀ r ∈
    [{ calendar with name := List.replicate 11 0x41 }, { calendar with edge := 65536 },
      { calendar with pitch := 65536 }, { calendar with margin := 65536 }, { calendar with styleCode := 256 },
      { calendar with gapWidth := 65536 }, { calendar with gapClearance := 65536 }, { calendar with drillX := 65536 },
      { calendar with drillY := 65536 }, { calendar with liftCapacity := 65536 }, { calendar with liftSheets := 256 },
      { calendar with target := 16777216 }, { calendar with groupCount := 256 }, { calendar with groupCount := 2 },
      { calendar with groups := [⟨256, 1, 300, 30⟩, ⟨2, 12, 160, 10⟩, ⟨3, 1, 1400, 40⟩] },
      { calendar with groups := [⟨1, 256, 300, 30⟩, ⟨2, 12, 160, 10⟩, ⟨3, 1, 1400, 40⟩] },
      { calendar with groups := [⟨1, 1, 65536, 30⟩, ⟨2, 12, 160, 10⟩, ⟨3, 1, 1400, 40⟩] },
      { calendar with groups := [⟨1, 1, 300, 65536⟩, ⟨2, 12, 160, 10⟩, ⟨3, 1, 1400, 40⟩] }],
    (Instr.programCycleEnd (.record r)).wellFormed = false := by decide

/-! ### Worked examples -/

/-- Section 1.6: the events of the reverse jog, each on the state the one before it left; here the divider's tally, P, T,
the reverse depth and the arming after the two edges that raise REVERSE. -/
theorem test_reverseJog :
    (ran (exec (.quadratureEdge ⟨true, false⟩) { atPosition 1001 runLine with
      position := { (atPosition 1001 runLine).position with
        raw := 991, tally := 1, tallyDirection := some .reverse, reference := ⟨true, true⟩ } })).map
      (fun t => ((t.position.tally, t.position.raw, t.position.tracking, t.position.reverseDepth),
        (t.position.armed, t.line.state, t.line.causes.reverse))) =
    some ((0, 990, 1001, 11), (false, .halt .run, true)) := by decide +kernel

/-- Section 3.5: sheet 5 reads 171 and is THICK. -/
theorem test_sheet_thick : sheetEntryOf calendar 5 171 = ⟨some 171, .thick, 171⟩ := by decide

/-- Section 3.5: the three lifts. -/
theorem test_lifts :
    (planLifts calendar (([305, 160, 160, 160, 160, 171, 160, 160, 160, 160, 160, 160, 160, 1412] : List Nat).mapIdx
      fun i c => sheetEntryOf calendar i c)).plan =
      some [⟨0, 10, 1756, false⟩, ⟨10, 3, 480, false⟩, ⟨13, 1, 1412, false⟩] := by decide +kernel

/-- Section 3.6: the overloaded backboard, and the recipe whose every set reaches the limit. -/
theorem test_lifts_overload :
    planLifts calendar (([305, 160, 160, 160, 160, 171, 160, 160, 160, 160, 160, 160, 160, 1850] : List Nat).mapIdx
      fun i c => sheetEntryOf calendar i c) =
      ⟨some [⟨0, 10, 1756, false⟩, ⟨10, 3, 480, false⟩, ⟨13, 1, 1850, true⟩], true, false⟩ ∧
    planLifts { calendar with liftCapacity := 1400, liftSheets := 4 }
      (⟨some 300, .ok, 300⟩ :: List.replicate 30 ⟨some 170, .ok, 170⟩ ++ [⟨some 1400, .ok, 1400⟩]) =
      ⟨none, false, true⟩ := by decide +kernel

/-- Section 4.13: the plan of the calendar. -/
theorem test_plan :
    (calendarPlan.holes, calendarPlan.clamped, calendarPlan.leftMargin, calendarPlan.rightMargin) = (34, false, 874, 875) ∧
    (calendarPlan.firstPin, calendarPlan.guide, calendarPlan.removed) = (7, 6255, some (15, 4)) ∧
    calendarPlan.segments = [⟨874, 15⟩, ⟨16967, 15⟩] ∧ calendarPlan.notch = some (14850, 3000) ∧
    calendarPlan.drill = none ∧
    (List.range 48).filter (fun k => calendarPlan.pins[k]? = some true) = List.range' 7 15 ++ List.range' 26 15 := by
  decide +kernel

/-- A gap too narrow to take out a hole (R69). -/
theorem test_plan_gapNarrow :
    (computePlan { calendar with gapWidth := 500, gapClearance := 100 } (some die48) lineTable).toOption = none ∧
    answerOf .stageInline .supervisor (asked .supervisor kindStageInline
      (recipeBytes { calendar with gapWidth := 500, gapClearance := 100 }) idleLine) = some [17, 9] := by
  decide +kernel

/-- Section 6.4, steps 6, 9 and 10: the configuration results. -/
theorem test_validate :
    validate (lineTable.set .p4 ⟨.station .binder, 1800, 2990, 30⟩) ⟨1, 200, 2000, 0⟩ = ⟨.gateClearance, some .p4⟩ ∧
    validate (lineTable.set .p6 .reset) ⟨2, 10, 100, 3⟩ = ⟨.ok, none⟩ ∧
    validate lineTable ⟨2, 10, 100, 3⟩ = ⟨.spacing, none⟩ ∧ validate lineTable ⟨2, 10, 2000, 3⟩ = ⟨.ok, none⟩ := by
  decide +kernel

/-- Section 6.8: the equally near sets of edge 1; the older is chosen; at edge 2 the other. -/
theorem test_crowdedPair :
    ((chosenSet [travelling 60 20000, travelling 61 20030] (lineTable.get .p2) .punch 20415).map (·.number),
      (chosenSet [travelling 60 20000, travelling 61 20030] (lineTable.get .p2) .punch 20440).map (·.number)) =
      (some 60, some 61) := by
  decide +kernel

/-! ### States and operands that meet the statements' hypotheses

One theorem for each statement with hypotheses, named after it; where a request is answered, the answer's code and
fields are shown too. -/

theorem witness_StepRunsFrontCommand :
    (∃ (c : Instr) (rest : List Instr) (s : State), s.pending = c :: rest) ∧ (∃ s : State, s.pending = []) :=
  ⟨⟨.supplyLoss, [.answerSent .supervisor], { runLine with pending := [.supplyLoss, .answerSent .supervisor] }, rfl⟩,
    ⟨runLine, rfl⟩⟩

/-- The line counting with a divider setting, a tally and its direction, P and T, and REVERSE armed or not; reference pair
low-low. -/
def counting (divider tally : Nat) (dir : Option Direction) (raw tracking : Position) (armed : Bool) : State :=
  { runLine with
    tracker := { runLine.tracker with lineConfig := ⟨divider, 10, 2000, 3⟩ }
    position := ⟨raw, tracking, tally, dir, armed, false, ⟨false, false⟩⟩ }

/-- Some edge of the direction, with the tally it keeps, meets `P`. -/
def EdgeMeets (dir : Direction) (P : State → Nat → Prop) : Prop :=
  ∃ (s : State) (pair : PhasePair) (kept : Nat), IsEdge s.position.reference pair dir ∧
    kept = (if s.position.tallyDirection = some dir then s.position.tally else 0) ∧ P s kept

theorem EdgeMeets.forward {P : State → Nat → Prop} (s : State) (low : s.position.reference = ⟨false, false⟩)
    (h : P s (if s.position.tallyDirection = some .forward then s.position.tally else 0)) : EdgeMeets .forward P :=
  ⟨s, ⟨true, false⟩, _, by simp [IsEdge, FollowsForward, low], rfl, h⟩

theorem EdgeMeets.reverse {P : State → Nat → Prop} (s : State) (low : s.position.reference = ⟨false, false⟩)
    (h : P s (if s.position.tallyDirection = some .reverse then s.position.tally else 0)) : EdgeMeets .reverse P :=
  ⟨s, ⟨false, true⟩, _, by simp [IsEdge, FollowsForward, low], rfl, h⟩

theorem witness_EdgeBelowTheDividerIsTallied :
    EdgeMeets .forward (fun s kept => kept + 2 = s.tracker.lineConfig.divider) ∧
    EdgeMeets .reverse (fun s kept => kept = 0 ∧ kept + 1 < s.tracker.lineConfig.divider) :=
  ⟨.forward (counting 4 2 (some .forward) 0 0 true) rfl (by decide +kernel),
    .reverse (counting 2 1 (some .forward) 0 0 true) rfl (by decide +kernel)⟩

theorem witness_ForwardCountMovesPositions :
    EdgeMeets .forward (fun s kept => s.tracker.lineConfig.divider = kept + 1 ∧ s.position.raw = s.position.tracking) ∧
    EdgeMeets .forward (fun s kept => s.tracker.lineConfig.divider ≤ kept + 1 ∧ s.position.raw ≠ s.position.tracking ∧
      s.position.raw + 1 = s.position.tracking) ∧
    EdgeMeets .forward (fun s kept => s.tracker.lineConfig.divider ≤ kept + 1 ∧ s.position.raw ≠ s.position.tracking ∧
      s.position.raw + 1 ≠ s.position.tracking) :=
  ⟨.forward (counting 4 3 (some .forward) 0xFFFFFFFF 0xFFFFFFFF true) rfl (by decide +kernel),
    .forward (counting 1 0 none 9 10 false) rfl (by decide +kernel),
    .forward (counting 1 0 none 8 10 false) rfl (by decide +kernel)⟩

theorem witness_ReverseCountMayRaiseReverse :
    EdgeMeets .reverse (fun s kept => s.tracker.lineConfig.divider ≤ kept + 1 ∧ s.position.armed = true ∧
      s.tracker.lineConfig.reverseLimit + 1 = (s.position.tracking - (s.position.raw - 1)).toNat) ∧
    EdgeMeets .reverse (fun s kept => s.tracker.lineConfig.divider ≤ kept + 1 ∧ s.position.armed = true ∧
      s.tracker.lineConfig.reverseLimit = (s.position.tracking - (s.position.raw - 1)).toNat) ∧
    EdgeMeets .reverse (fun s kept => s.tracker.lineConfig.divider ≤ kept + 1 ∧ s.position.armed = false ∧
      s.tracker.lineConfig.reverseLimit < (s.position.tracking - (s.position.raw - 1)).toNat) :=
  ⟨.reverse (counting 2 1 (some .reverse) 991 1001 true) rfl (by decide +kernel),
    .reverse (counting 2 1 (some .reverse) 992 1001 true) rfl (by decide +kernel),
    .reverse (counting 1 0 none 990 1001 false) rfl (by decide +kernel)⟩

theorem witness_IllegalTransitionSetsEncoder :
    ((⟨true, true⟩ : PhasePair).a ≠ runLine.position.reference.a ∧
      (⟨true, true⟩ : PhasePair).b ≠ runLine.position.reference.b) ∧
    (⟨false, false⟩ : PhasePair) = runLine.position.reference := by decide +kernel

theorem witness_HaltCauseIsHandedOver : ∀ l : LineState, (inState l runLine).line.state = l := fun _ => rfl

/-- The line with one travelling set whose progress is as given. -/
def withProgress (e : ProgressEntries) : State := withSets [{ travelling 1 0 with progress := e }] runLine

/-- Both crossings at their boundaries, at the gate and elsewhere, with the third miss; every other state of an entry. -/
theorem witness_StationBoundariesAreCrossed :
    (∀ q ∈ ([.waiting, .passing, .atStation, .missed, .done none, .unconfirmed] : List Progress), ∀ r ∈ stationRoles,
      (withProgress (untouched.set r q)).findSet 1 = some { travelling 1 0 with progress := untouched.set r q } ∧
      (untouched.set r q).get r = some q) ∧
    (∀ p ∈ ([.p2, .p3, .p4, .p5, .p6] : List StationPort), ∃ r, (runLine.station p).role = .station r) ∧
    ((runLine.station .p2).arrive + (runLine.station .p2).tol = 420 ∧ (runLine.station .p2).close = 600) ∧
    (runLine.station .p1).role = .collator ∧ (State.reset.station .p1).role = .none :=
  ⟨by decide +kernel, by simp [runLine, idleLine, lineTable, State.station, PerStation.get], by decide +kernel⟩

/-- The step from 3200 to 3201 takes the gate's close crossing and then the exit. -/
theorem witness_ExitCrossingIsTakenLast :
    (withSets [gathering 1 0] runLine).findSet 1 = some (gathering 1 0) ∧
    (withProgress { untouched with gate := some .atStation }).findSet 1 =
      some { travelling 1 0 with progress := { untouched with gate := some .atStation } } ∧
    exitBoundary lineTable = some 3200 ∧
    ((State.crossAtStep 3200 3201 (withProgress { untouched with gate := some .atStation }) 1).verdict.history.map
      fun e => (e.outlet, e.checks.unconfirmed)) = [(.unresolved, true)] ∧
    (travelling 1 0xFFFFFFFF).distance 0 + 1 < 2 ^ 32 := by decide +kernel

theorem witness_LeavingSetIsSettled :
    (∀ o ∈ ([.accept, .reject, .rework] : List GateOutlet),
      ∃ x : SetRecord, x.progress.gate = some (.done (some o)) ∧ x.taken = some o) ∧
    (∃ (s : State) (x : SetRecord), outletAtLeaving .exit x = .rework ∧ 0 < s.tracker.lineConfig.rejectLimit ∧
      min (s.verdict.rejectRun + 1) 255 = s.tracker.lineConfig.rejectLimit ∧ s.line.state = .run) ∧
    (∃ (s : State) (x : SetRecord), outletAtLeaving .exit x = .reject ∧ s.tracker.lineConfig.rejectLimit = 255 ∧
      min (s.verdict.rejectRun + 1) 255 = s.tracker.lineConfig.rejectLimit) ∧
    (∃ x : SetRecord, x.progress.gate = some .missed) ∧ ∃ x : SetRecord, x.progress.gate = some .unconfirmed :=
  ⟨fun o _ => ⟨{ travelling 1 0 with progress := { untouched with gate := some (.done (some o)) }, taken := some o },
      rfl, rfl⟩,
    ⟨{ runLine with verdict := { runLine.verdict with rejectRun := 2 } },
      { travelling 1 0 with progress := { untouched with gate := some (.done (some .rework)) }, taken := some .rework },
      by decide +kernel⟩,
    ⟨{ runLine with
        verdict := { runLine.verdict with rejectRun := 254 }
        tracker := { runLine.tracker with lineConfig := ⟨1, 200, 2000, 255⟩ } },
      { travelling 1 0 with progress := { untouched with gate := some (.done (some .reject)) }, taken := some .reject },
      by decide +kernel⟩,
    ⟨{ travelling 1 0 with progress := { untouched with gate := some .missed } }, rfl⟩,
    ⟨{ travelling 1 0 with progress := { untouched with gate := some .unconfirmed } }, rfl⟩⟩

/-- The calendar's job one accepted set below its target of 4, and two below. -/
def nearTarget (accepted : Nat) : Job :=
  { calendarJob with counters := { opened := 4, accepted := BitVec.ofNat 32 accepted } }

theorem witness_OutletIsCountedIntoTheSlot :
    (0 < (nearTarget 3).target ∧ ((nearTarget 3).counters.accepted + 1).toNat = (nearTarget 3).target) ∧
    ((nearTarget 2).counters.accepted + 1).toNat ≠ (nearTarget 2).target ∧
    (runLine.setSlot .a (.current 1 (nearTarget 3))).plan.slot .a = .current 1 (nearTarget 3) ∧
    (runLine.setSlot .b (.draining 1 (nearTarget 3))).plan.slot .b = .draining 1 (nearTarget 3) := by decide +kernel

theorem witness_SlotsAreReleased :
    (runLine.setSlot .b (.draining 1 { calendarJob with inQueue := 1 })).plan.slot .b =
      .draining 1 { calendarJob with inQueue := 1 } ∧
    (runLine.setSlot .b (.draining 1 { calendarJob with inQueue := 2 })).plan.slot .b =
      .draining 1 { calendarJob with inQueue := 2 } ∧
    runLine.plan.slot .a = .current 1 calendarJob ∧
    ((inState .drain runLine).line.state = .drain ∧ (inState .drain runLine).tracker.queue = []) ∧
    ¬(runLine.line.state = .drain ∧ runLine.tracker.queue = []) := by decide +kernel

/-! ### The ports -/

/-- The line with a port's controller as given. -/
def withPort (p : Port) (q : PortState) : State := runLine.updatePort p fun _ => q

/-- A port whose receiver is as given and whose buffer holds some frames. -/
def receiving (r : Receiver) (frames : Nat) : PortState :=
  { PortState.reset with receiver := r, buffer := List.replicate frames ⟨0x30, [], 0⟩ }

theorem witness_CharacterAdvancesTheReceiver :
    (runLine.port .supervisor).receiver = .hunt ∧ (Character.byte 0x00 ≠ .byte 0xA5 ∧ Character.byte 0xA4 ≠ .byte 0xA5) ∧
    ((withPort .supervisor (receiving (.length 7) 0)).port .supervisor).receiver = .length 7 ∧
    (1 ≤ (1 : Byte).toNat ∧ (128 : Byte).toNat ≤ 128) ∧
    ((withPort .supervisor (receiving (.body 7 2 []) 0)).port .supervisor).receiver = .body 7 2 [] ∧
    ((withPort .supervisor (receiving (.body 7 2 [0x31]) 0)).port .supervisor).receiver = .body 7 2 [0x31] ∧
    ([] : List Byte).length + 1 < 2 ∧ 2 ≤ ([0x31] : List Byte).length + 1 := by decide +kernel

/-- READ STATUS as it stands on the line: A5 01 30 CF. -/
theorem witness_FrameIsCompletedOrDropped :
    (∀ frames ∈ [0, 3, 4], ((withPort .supervisor (receiving (.check 7 1 [0x30]) frames)).port .supervisor).receiver =
      .check 7 1 [0x30] ∧
      ((withPort .supervisor (receiving (.check 7 1 [0x30]) frames)).port .supervisor).buffer.length = frames) ∧
    (1 + (0x30 : Byte).toNat + (([] : List Byte).map (·.toNat)).sum + (0xCF : Byte).toNat) % 256 = 0 ∧
    (1 + (0x30 : Byte).toNat + (([] : List Byte).map (·.toNat)).sum + (0xD0 : Byte).toNat) % 256 ≠ 0 ∧
    ((withPort .supervisor (receiving (.length 7) 0)).port .supervisor).receiver = .length 7 ∧
    ((0 : Byte).toNat = 0 ∧ 128 < (129 : Byte).toNat) := by decide +kernel

theorem witness_GapTimeoutAndAnswerSent :
    ((withPort .supervisor (receiving (.length 7) 0)).port .supervisor).receiver ≠ .hunt ∧
    (runLine.port .supervisor).receiver = .hunt ∧ (runLine.port .supervisor).answers = [] ∧
    ((withPort .supervisor { PortState.reset with answers := [[0xA5], [0xA4]] }).port .supervisor).answers =
      [0xA5] :: [[0xA4]] := by decide +kernel

theorem witness_PortAnswersRoleAndBadLen :
    (∀ k ∈ [0x00, 0x1F, 0x36, 0xFF], Meets .supervisor (BitVec.ofNat 8 k) fun s f =>
      (f.kind.toNat < 0x20 ∨ 0x35 < f.kind.toNat) ∧ answerOf (.unknownKind .supervisor) .supervisor s = some [5]) ∧
    (∀ k ∈ [0x00, 0x0A], Meets (.station .p2) (BitVec.ofNat 8 k) fun s f =>
      (f.kind.toNat < 0x01 ∨ 0x09 < f.kind.toNat) ∧
      answerOf (.unknownKind (.station .p2)) (.station .p2) s = some [5]) ∧
    (∀ payload ∈ ([[], [1, 2]] : List (List Byte)), Meets .supervisor kindErase fun s f =>
      requestOf .erase = some (.supervisor, f.kind) ∧ lengthFits f.kind f.payload = false ∧ f.payload = payload ∧
      answerOf .erase .supervisor s = some [6]) ∧
    (Meets (.station .p2) kindOpen fun s f => lengthFits f.kind f.payload = true ∧
      (s.station .p2).role ≠ .collator ∧ requestOf (.openSet .p2) = some (.station .p2, f.kind) ∧
      answerOf (.openSet .p2) (.station .p2) s = some [5]) ∧
    (Meets (.station .p1) kindEdge fun s f => lengthFits f.kind f.payload = true ∧
      (s.station .p1).role = .collator ∧ answerOf (.edge .p1) (.station .p1) s = some [5]) ∧
    4 ≤ ((withPort .supervisor { PortState.reset with answers := List.replicate 4 [] }).port .supervisor).answers.length :=
  ⟨.each _ (fun _ => runLine) (fun _ => []) (by decide +kernel),
    .each _ (fun _ => runLine) (fun _ => []) (by decide +kernel),
    .each _ (fun _ => runLine) id (by decide +kernel), .of runLine [] (by decide) (by decide +kernel),
    .of runLine [0] (by decide) (by decide +kernel), by decide +kernel⟩

theorem witness_SentFrameArrivesWhole :
    PortState.reset.receiver = .hunt ∧ PortState.reset.buffer.length < 4 ∧ (receiving .hunt 3).buffer.length < 4 ∧
    ([] : List Byte).length ≤ 127 ∧ (List.replicate 127 (0 : Byte)).length ≤ 127 := by decide +kernel

/-! ### Configuration -/

/-- A SET LINE's payload. -/
def linePayload (c : LineConfig) : List Byte :=
  be1 c.divider ++ be2 c.reverseLimit ++ be2 c.spacing ++ be1 c.rejectLimit

theorem witness_SetLineIsTaken :
    (∀ l ∈ ([.run, .drain, .halt .run] : List LineState), Meets .supervisor kindSetLine fun s f =>
      f.payload = linePayload ⟨1, 200, 2000, 0⟩ ∧ (s.line.state ≠ .unconfigured ∧ s.line.state ≠ .idle) ∧
      s.line.state = l ∧ answerOf .setLine .supervisor s = some [4]) ∧
    (∀ c ∈ ([⟨1, 10, 100, 0⟩, ⟨2, 2000, 20000, 255⟩, ⟨4, 200, 120, 1⟩] : List LineConfig),
      Meets .supervisor kindSetLine fun s f => f.payload = linePayload c ∧ s.line.state = .idle ∧
        (c.divider = 1 ∨ c.divider = 2 ∨ c.divider = 4) ∧ (10 ≤ c.reverseLimit ∧ c.reverseLimit ≤ 2000) ∧
        (100 ≤ c.spacing ∧ c.spacing ≤ 20000) ∧ c.rejectLimit < 256 ∧
        answerOf .setLine .supervisor s = some [0, if c.spacing ≤ 120 then 11 else 0, 0]) ∧
    (∀ c ∈ ([(⟨0, 10, 100, 0⟩, 1), (⟨3, 10, 100, 0⟩, 1), (⟨255, 10, 100, 0⟩, 1), (⟨1, 9, 100, 0⟩, 2),
        (⟨1, 2001, 100, 0⟩, 2), (⟨1, 65535, 100, 0⟩, 2), (⟨1, 10, 99, 0⟩, 3), (⟨1, 10, 20001, 0⟩, 3)] :
        List (LineConfig × Nat)), Meets .supervisor kindSetLine fun s f =>
      f.payload = linePayload c.1 ∧ s.line.state = .unconfigured ∧
      answerOf .setLine .supervisor s = some [7, c.2, 0]) :=
  ⟨.each _ (fun l => inState l runLine) (fun _ => linePayload ⟨1, 200, 2000, 0⟩) (by decide +kernel),
    .each _ (fun _ => idleLine) linePayload (by decide +kernel),
    .each _ (fun _ => State.reset) (fun c => linePayload c.1) (by decide +kernel)⟩

/-- A SET STATION's payload. -/
def stationPayload (c : StationParams) : List Byte :=
  be1 c.port ++ be1 c.role ++ be2 c.arrive ++ be2 c.close ++ be2 c.tol

/-- IDLE with the calendar STAGED, whose style CUT needs the notch unit of port 3. -/
def stagedLine : State := idleLine.setSlot .a (.staged calendarJob)

theorem witness_SetStationIsTaken :
    (∀ l ∈ ([.run, .drain, .halt .drain] : List LineState), Meets .supervisor kindSetStation fun s f =>
      f.payload = stationPayload ⟨6, 0, 0, 0, 0⟩ ∧ (s.line.state ≠ .unconfigured ∧ s.line.state ≠ .idle) ∧
      s.line.state = l ∧ answerOf .setStation .supervisor s = some [4]) ∧
    (∀ c ∈ ([(⟨0, 2, 0, 0, 1⟩, 1), (⟨7, 2, 0, 0, 1⟩, 1), (⟨1, 7, 0, 0, 1⟩, 2), (⟨6, 255, 0, 0, 1⟩, 2),
        (⟨6, 2, 65001, 0, 1⟩, 3), (⟨6, 6, 65000, 65001, 1⟩, 4), (⟨6, 4, 65000, 65000, 0⟩, 5),
        (⟨6, 4, 0, 0, 501⟩, 5)] : List (StationParams × Nat)), Meets .supervisor kindSetStation fun s f =>
      f.payload = stationPayload c.1 ∧ s.line.state = .idle ∧
      answerOf .setStation .supervisor s = some [7, c.2, 0]) ∧
    (∀ c ∈ ([(⟨6, 4, 65000, 65000, 500⟩, 8, 6), (⟨6, 4, 0, 0, 1⟩, 7, 6), (⟨6, 0, 65535, 65535, 65535⟩, 0, 0),
        (⟨6, 1, 65535, 65535, 0⟩, 1, 0)] : List (StationParams × Nat × Nat)),
      Meets .supervisor kindSetStation fun s f =>
        f.payload = stationPayload c.1 ∧ s.line.state = .idle ∧ stationNumber .p6 = c.1.port ∧
        answerOf .setStation .supervisor s = some [0, c.2.1, c.2.2]) ∧
    (Meets .supervisor kindSetStation fun s f => f.payload = stationPayload ⟨3, 0, 0, 0, 0⟩ ∧ s.line.state = .idle ∧
      s.plan.slotA.lacksHanger (s.tracker.stations.set .p3 ⟨.none, 0, 0, 0⟩) = true ∧
      (ran (exec .setStation s)).map (fun t => t.plan.slotA) = some .free) :=
  ⟨.each _ (fun l => inState l runLine) (fun _ => stationPayload ⟨6, 0, 0, 0, 0⟩) (by decide +kernel),
    .each _ (fun _ => idleLine) (fun c => stationPayload c.1) (by decide +kernel),
    .each _ (fun _ => idleLine) (fun c => stationPayload c.1) (by decide +kernel),
    .of stagedLine (stationPayload ⟨3, 0, 0, 0, 0⟩) (by decide) (by decide +kernel)⟩

theorem witness_SetDieIsTaken :
    (Meets .supervisor kindSetDie fun s f => f.payload = dieBytes die48 ∧
      (s.line.state ≠ .unconfigured ∧ s.line.state ≠ .idle) ∧ answerOf .setDie .supervisor s = some [4]) ∧
    (∀ c ∈ ([(⟨7, 400, 0, 0⟩, 1), (⟨65, 400, 0, 0⟩, 1), (⟨8, 399, 0, 0⟩, 2), (⟨8, 2001, 0, 0⟩, 2),
        (⟨64, 2000, 20001, 0⟩, 3), (⟨64, 2000, 20000, 20001⟩, 4)] : List (Die × Nat)),
      Meets .supervisor kindSetDie fun s f => f.payload = dieBytes c.1 ∧ s.line.state = .unconfigured ∧
        answerOf .setDie .supervisor s = some [7, c.2, 0]) ∧
    (∀ d ∈ ([⟨8, 400, 0, 0⟩, ⟨64, 2000, 20000, 20000⟩] : List Die), Meets .supervisor kindSetDie fun s f =>
      f.payload = dieBytes d ∧ s.line.state = .idle ∧ (8 ≤ d.pins ∧ d.pins ≤ 64) ∧
      (400 ≤ d.pitch ∧ d.pitch ≤ 2000) ∧ d.offset ≤ 20000 ∧ d.travel ≤ 20000 ∧
      answerOf .setDie .supervisor s = some [0, 1]) :=
  ⟨.of runLine (dieBytes die48) (by decide) (by decide +kernel),
    .each _ (fun _ => State.reset) (fun c => dieBytes c.1) (by decide +kernel),
    .each _ (fun _ => stagedLine) dieBytes (by decide +kernel)⟩

/-- A rule: ALL of PUNCH_FAULT gives REWORK. -/
def reworkRule : VerdictRule := ⟨.all, { punchFault := true }, .rework⟩

/-- A SET RULES payload with a raw rule after some good ones. -/
def rulesPayload (good : List VerdictRule) (test mask outlet : Nat) : List Byte :=
  be1 (good.length + 1) ++ good.flatMap ruleBytes ++ (be1 test ++ be2 mask ++ be1 outlet) ++ []

theorem witness_SetRulesIsTaken :
    (∀ rules ∈ ([[], [reworkRule], List.replicate 8 reworkRule] : List (List VerdictRule)),
      Meets .supervisor kindSetRules fun s f => rules.length ≤ 8 ∧
        f.payload = be1 rules.length ++ rules.flatMap ruleBytes ∧
        (ran (exec .setRules s)).map (fun t => t.verdict.rules) = some rules) ∧
    (Meets .supervisor kindSetRules fun s f => f.payload = be1 9 ++ List.replicate 36 0 ∧
      (List.replicate 36 (0 : Byte)).length = 4 * 9 ∧ answerOf .setRules .supervisor s = some [7, 1, 0]) ∧
    (∀ c ∈ ([([], 0, 0, 1, 2), (List.replicate 7 reworkRule, 3, 0, 1, 2), ([], 1, 32768, 1, 3),
        ([reworkRule], 2, 65535, 1, 3), ([], 1, 32767, 0, 4), ([reworkRule], 2, 0, 4, 4)] :
        List (List VerdictRule × Nat × Nat × Nat × Nat)), Meets .supervisor kindSetRules fun s f =>
      f.payload = rulesPayload c.1 c.2.1 c.2.2.1 c.2.2.2.1 ∧
      answerOf .setRules .supervisor s = some [7, c.2.2.2.2, c.1.length + 1]) :=
  ⟨.each _ (fun _ => runLine) (fun rules => be1 rules.length ++ rules.flatMap ruleBytes) (by decide +kernel),
    .of runLine (be1 9 ++ List.replicate 36 0) (by decide) (by decide +kernel),
    .each _ (fun _ => runLine) (fun c => rulesPayload c.1 c.2.1 c.2.2.1 c.2.2.2.1) (by decide +kernel)⟩

/-! ### The recipe store -/

/-- The store with one slot as given, and a cycle or none. -/
def withStore (i : Fin 16) (x : StoreSlot) (cycle : Option ProgramCycle) (s : State) : State :=
  { s with store := ⟨s.store.slots.set i x, cycle, none⟩ }

theorem witness_StoreAndEraseBeginACycle :
    calendar.fitsLayout = true ∧
    (∀ n ∈ [0, 17, 255], Meets .supervisor kindStore fun s f => f.payload = be1 n ++ recipeBytes calendar ∧
      answerOf .store .supervisor s = some [7, 0, 0]) ∧
    (∀ i ∈ ([0, 15] : List (Fin 16)), Meets .supervisor kindStore fun s f =>
      f.payload = be1 (i.val + 1) ++ recipeBytes calendar ∧ rangeFailure calendar = none ∧ s.store.cycle = none ∧
      answerOf .store .supervisor s = some [0, i.val + 1]) ∧
    (Meets .supervisor kindStore fun s f => f.payload = be1 1 ++ recipeBytes calendar ∧ s.store.cycle ≠ none ∧
      answerOf .store .supervisor s = some [1]) ∧
    (Meets .supervisor kindStore fun s f => f.payload = be1 1 ++ recipeBytes { calendar with edge := 4999 } ∧
      ({ calendar with edge := 4999 } : Recipe).fitsLayout = true ∧
      rangeFailure { calendar with edge := 4999 } = some ⟨2, 0⟩ ∧
      answerOf .store .supervisor s = some [7, 2, 0]) ∧
    (∀ n ∈ [0, 17, 255], Meets .supervisor kindErase fun s f => f.payload = be1 n ∧
      answerOf .erase .supervisor s = some [7, 0, 0]) ∧
    (∀ i ∈ ([0, 15] : List (Fin 16)), Meets .supervisor kindErase fun s f =>
      f.payload = be1 (i.val + 1) ∧ s.store.cycle = none ∧ answerOf .erase .supervisor s = some [0, i.val + 1]) ∧
    (Meets .supervisor kindErase fun s f => f.payload = be1 16 ∧ s.store.cycle ≠ none ∧
      answerOf .erase .supervisor s = some [1]) :=
  ⟨by decide, .each _ (fun _ => runLine) (fun n => be1 n ++ recipeBytes calendar) (by decide +kernel),
    .each _ (fun _ => runLine) (fun i => be1 (i.val + 1) ++ recipeBytes calendar) (by decide +kernel),
    .of (withStore 3 .corrupt (some ⟨.erase, 3⟩) runLine) (be1 1 ++ recipeBytes calendar) (by decide) (by decide +kernel),
    .of runLine (be1 1 ++ recipeBytes { calendar with edge := 4999 }) (by decide) (by decide +kernel),
    .each _ (fun _ => runLine) be1 (by decide +kernel),
    .each _ (fun _ => runLine) (fun i => be1 (i.val + 1)) (by decide +kernel),
    .of (withStore 3 .corrupt (some ⟨.erase, 3⟩) runLine) (be1 16) (by decide) (by decide +kernel)⟩

theorem witness_ProgramCycleEndsInItsSlot :
    (withStore 0 .corrupt (some ⟨.store calendar, 0⟩) runLine).store.cycle = some ⟨.store calendar, 0⟩ ∧
    (withStore 15 .corrupt (some ⟨.erase, 15⟩) runLine).store.cycle = some ⟨.erase, 15⟩ ∧
    ReadBack.record { calendar with target := 5 } = .record { calendar with target := 5 } ∧
    ({ calendar with target := 5 } : Recipe) ≠ calendar ∧ runLine.store.cycle = none := by decide +kernel

theorem witness_ReadRecipeAnswersTheSlot :
    (∀ n ∈ [0, 17, 255], Meets .supervisor kindReadRecipe fun s f => f.payload = be1 n ∧
      answerOf .readRecipe .supervisor s = some [7, 0, 0]) ∧
    (Meets .supervisor kindReadRecipe fun s f => f.payload = be1 1 ∧ s.store.cycle ≠ none ∧
      answerOf .readRecipe .supervisor s = some [1]) ∧
    (∀ c ∈ ([(0, .empty, [15]), (15, .empty, [15]), (0, .corrupt, [16]), (15, .corrupt, [16]),
        (0, .valid calendar, 0 :: (recipeBytes calendar).map (·.toNat)),
        (15, .valid calendar, 0 :: (recipeBytes calendar).map (·.toNat))] : List (Fin 16 × StoreSlot × List Nat)),
      Meets .supervisor kindReadRecipe fun s f => f.payload = be1 (c.1.val + 1) ∧ s.store.cycle = none ∧
        s.store.slots[c.1] = c.2.1 ∧ answerOf .readRecipe .supervisor s = some c.2.2) :=
  ⟨.each _ (fun _ => runLine) be1 (by decide +kernel),
    .of (withStore 3 .corrupt (some ⟨.erase, 3⟩) runLine) (be1 1) (by decide) (by decide +kernel),
    .each _ (fun c => withStore c.1 c.2.1 none runLine) (fun c => be1 (c.1.val + 1)) (by decide +kernel)⟩

/-! ### Jobs -/

/-- The line with both plan slots as given. -/
def withSlots (a b : PlanSlot) (s : State) : State := { s with plan := { s.plan with slotA := a, slotB := b } }

/-- The calendar in store slot 7. -/
def stored (s : State) : State := withStore 6 (.valid calendar) none s

/-- STAGE(7) by plan slots and line state: each refusal, and each way to a target slot. -/
theorem witness_StagingFillsTheTargetSlot :
    calendar.fitsLayout = true ∧ (computePlan calendar (some die48) lineTable).toOption = some calendarPlan ∧
    (∀ c ∈ ([(State.reset, [4]), (withStore 6 .empty none idleLine, [15]), (withStore 6 .corrupt none idleLine, [16]),
        (withStore 6 (.valid calendar) (some ⟨.erase, 3⟩) idleLine, [1]),
        (withSlots (.current 2 calendarJob) (.draining 1 calendarJob) (stored runLine), [1]),
        (withSlots (.draining 1 calendarJob) (.current 2 calendarJob) (stored runLine), [1]),
        (stored { idleLine with plan := PlanUnit.reset }, [17, 3]), (stored idleLine, [0, 1, 34, 0]),
        (stored stagedLine, [0, 1, 34, 0]), (stored runLine, [0, 2, 34, 0]),
        (withSlots (.current 1 calendarJob) (.staged calendarJob) (stored runLine), [0, 2, 34, 0])] :
        List (State × List Nat)), Meets .supervisor kindStage fun s f =>
      f.payload = be1 7 ∧ answerOf .stage .supervisor s = some c.2) ∧
    (∀ n ∈ [0, 17, 255], Meets .supervisor kindStage fun s f => f.payload = be1 n ∧ s.line.state ≠ .unconfigured ∧
      answerOf .stage .supervisor s = some [7, 0, 0]) ∧
    (∀ c ∈ ([(State.reset, [4]), (withSlots (.current 2 calendarJob) (.draining 1 calendarJob) runLine, [1]),
        ({ idleLine with plan := PlanUnit.reset }, [17, 3]), (idleLine, [0, 1, 34, 0]), (runLine, [0, 2, 34, 0])] :
        List (State × List Nat)), Meets .supervisor kindStageInline fun s f =>
      f.payload = recipeBytes calendar ∧ answerOf .stageInline .supervisor s = some c.2) :=
  ⟨by decide, by decide +kernel, .each _ Prod.fst (fun _ => be1 7) (by decide +kernel),
    .each _ (fun _ => idleLine) be1 (by decide +kernel),
    .each _ Prod.fst (fun _ => recipeBytes calendar) (by decide +kernel)⟩

theorem witness_DiscardFreesTheStagedSlot :
    ∀ c ∈ ([(stagedLine, true, false, [0, 1]), (idleLine.setSlot .b (.staged calendarJob), false, true, [0, 2]),
        (runLine, false, false, [4]), (State.reset, false, false, [4])] : List (State × Bool × Bool × List Nat)),
      Meets .supervisor kindDiscard fun s f => f.payload = [] ∧ s.plan.slotA.isStaged = c.2.1 ∧
        s.plan.slotB.isStaged = c.2.2.1 ∧ answerOf .discard .supervisor s = some c.2.2.2 :=
  .each _ Prod.fst (fun _ => []) (by decide +kernel)

/-- A line in UNCONFIGURED with a STAGED slot; no STAGED slot; the first job; a changeover in RUN, DRAIN and HALT over a
CURRENT slot with sets and without; the last job number. -/
theorem witness_ChangeoverMakesTheStagedSlotCurrent :
    ∀ c ∈ ([(inState .unconfigured stagedLine, [4]), (runLine, [4]), (stagedLine, [0, 1, 0, 1]),
        (runLine.setSlot .b (.staged calendarJob), [0, 2, 0, 2]),
        (inState (.halt .drain) ((withSets [travelling 1 0] runLine).setSlot .b (.staged calendarJob)), [0, 2, 0, 2]),
        (inState .drain (withSlots (.staged calendarJob) (.current 1 { calendarJob with inQueue := 1 }) runLine),
          [0, 1, 0, 2]),
        ({ stagedLine with plan := { stagedLine.plan with jobCounter := 65535 } }, [0, 1, 255, 255])] :
        List (State × List Nat)), Meets .supervisor kindChangeover fun s f =>
      f.payload = [] ∧ ¬(s.plan.slotA.isStaged = true ∧ s.plan.slotB.isStaged = true) ∧
      answerOf .changeover .supervisor s = some c.2 :=
  .each _ Prod.fst (fun _ => []) (by decide +kernel)

theorem witness_EndJobDrainsTheLine :
    ∀ c ∈ ([(State.reset, [4]), (idleLine, [4]), (runLine, [0]), (withSets [travelling 1 0] runLine, [0]),
        (inState (.halt .run) runLine, [0]), (inState (.halt .drain) runLine, [0]),
        (inState .drain (withSets [travelling 1 0] runLine), [0])] : List (State × List Nat)),
      Meets .supervisor kindEndJob fun s f => f.payload = [] ∧ answerOf .endJob .supervisor s = some c.2 :=
  .each _ Prod.fst (fun _ => []) (by decide +kernel)

theorem witness_StopHandsOverOperator :
    ∀ c ∈ ([(.unconfigured, [4]), (.idle, [4]), (.run, [0]), (.drain, [0]), (.halt .run, [0]), (.halt .drain, [0])] :
        List (LineState × List Nat)), Meets .supervisor kindStop fun s f =>
      f.payload = [] ∧ s.line.state = c.1 ∧ answerOf .stop .supervisor s = some c.2 :=
  .each _ (fun c => inState c.1 runLine) (fun _ => []) (by decide +kernel)

theorem witness_ResumeLeavesHalt :
    ∀ c ∈ ([(inState .unconfigured runLine, [4]), (inState .idle runLine, [4]), (runLine, [4]),
        (inState .drain runLine, [4]), (inState (.halt .run) runLine, [0, 3]), (inState (.halt .drain) runLine, [0, 2]),
        (inState (.halt .drain) (withSets [travelling 1 0] runLine), [0, 4])] : List (State × List Nat)),
      Meets .supervisor kindResume fun s f => f.payload = [] ∧ answerOf .resume .supervisor s = some c.2 :=
  .each _ Prod.fst (fun _ => []) (by decide +kernel)

/-- HALT with a travelling and a gathering set. -/
def haltedLine : State := inState (.halt .run) (withSets [travelling 1 0, gathering 2 0] runLine)

theorem slotLaw_haltedLine : (asked .supervisor kindPurge [] haltedLine).SlotLaw :=
  ⟨by unfold State.QueueLaw; decide +kernel, by unfold State.IdleLaw; decide +kernel,
    (rfl : (asked .supervisor kindPurge [] haltedLine).recordsOf .a = _),
    (rfl : (asked .supervisor kindPurge [] haltedLine).recordsOf .b = _), by unfold PlanUnit.Distinct; decide +kernel⟩

theorem witness_PurgeWithdrawsEverySet :
    (∀ l ∈ ([.unconfigured, .idle, .run, .drain] : List LineState), Meets .supervisor kindPurge fun s f =>
      f.payload = [] ∧ s.line.state = l ∧ answerOf .purge .supervisor s = some [4]) ∧
    (Meets .supervisor kindPurge fun s f => f.payload = [] ∧ s.line.state = .halt .run ∧ s.SlotLaw ∧ s.HistoryLaw ∧
      answerOf .purge .supervisor s = some [0, 2]) :=
  ⟨.each _ (fun l => inState l runLine) (fun _ => []) (by decide +kernel),
    .of haltedLine [] (by decide) ⟨rfl, rfl, slotLaw_haltedLine, ⟨by decide, fun k e h => by
      simp [asked, haltedLine, inState, withSets, runLine, idleLine, State.reset, State.afterReset, VerdictUnit.reset,
        State.updatePort] at h⟩, by decide +kernel⟩⟩

/-! ### What the supervisor reads and marks -/

theorem witness_MarkSampleBeforeTheGate :
    (∀ n ∈ [0, 2, 65535], Meets .supervisor kindMarkSample fun s f => f.payload = be2 n ∧ s.findSet n = none ∧
      answerOf .markSample .supervisor s = some [8]) ∧
    (∀ c ∈ ([(.waiting, [0]), (.atStation, [12]), (.missed, [12])] : List (Progress × List Nat)),
      Meets .supervisor kindMarkSample fun s f => f.payload = be2 1 ∧
        (s.findSet 1).map (·.progress.gate) = some (some c.1) ∧ answerOf .markSample .supervisor s = some c.2) :=
  ⟨.each _ (fun _ => withProgress untouched) be2 (by decide +kernel),
    .each _ (fun c => withProgress { untouched with gate := some c.1 }) (fun _ => be2 1) (by decide +kernel)⟩

theorem witness_ReadStatusClearsTheLatches :
    Meets .supervisor kindReadStatus fun s f => f.payload = [] ∧ s.line.jobDone = true ∧
      answerOf .readStatus .supervisor s = some (0 :: (statusBytes s).map (·.toNat)) ∧
      (ran (exec .readStatus s)).map (fun t => (t.line.jobDone, t.line.attn)) = some (false, false) :=
  .of { runLine with line := { runLine.line with jobDone := true, attn := true } } [] (by decide) (by decide +kernel)

theorem witness_ReadSetAndReadPlanChangeNothing :
    (Meets .supervisor kindReadSet fun s f => f.payload = be2 65535 ∧ s.findSet 65535 = none ∧
      answerOf .readSet .supervisor s = some [8]) ∧
    (Meets .supervisor kindReadSet fun s f => f.payload = be2 1 ∧ s.findSet 1 = some (travelling 1 0) ∧
      answerOf .readSet .supervisor s = some (0 :: (setRecordBytes 0 (travelling 1 0)).map (·.toNat))) ∧
    (∀ c ∈ [(0, [7, 1, 0]), (3, [7, 1, 0]), (255, [7, 1, 0]), (2, [15])], Meets .supervisor kindReadPlan fun s f =>
      f.payload = be1 c.1 ∧ answerOf .readPlan .supervisor s = some c.2) ∧
    (Meets .supervisor kindReadPlan fun s f => f.payload = be1 1 ∧ slotIdByte .a = 1 ∧
      (s.plan.slot .a).job? = some calendarJob ∧ s.plan.die = some die48 ∧
      (answerOf .readPlan .supervisor s).map (·.take 3) = some [0, 2, 7]) :=
  ⟨.of runLine (be2 65535) (by decide) (by decide +kernel),
    .of (withSets [travelling 1 0] runLine) (be2 1) (by decide) (by decide +kernel),
    .each _ (fun _ => runLine) (fun c => be1 c.1) (by decide +kernel), .of runLine (be1 1) (by decide) (by decide +kernel)⟩

/-- The line with one history entry of an exit number, the next one X, and a read pointer. -/
def withHistory (exit x r : Counter) : State :=
  { runLine with
    verdict := ⟨[], 0, [⟨exit, 1, 1, .purged, none, {}, none, 0⟩], x, r⟩ }

theorem historyLaw_asked (exit x r : Counter) (h : exit = x - 1) :
    (asked .supervisor kindReadHistory [] (withHistory exit x r)).HistoryLaw :=
  ⟨by simp [asked, withHistory, State.updatePort, Config.historyDepth], fun k e found => by
    cases k with
    | zero =>
      simp [asked, withHistory, State.updatePort] at found
      subst found
      simp [asked, withHistory, State.updatePort, h]
    | succ k => simp [asked, withHistory, State.updatePort] at found⟩

/-- A lag of 0, a lag within the entries held, at the wrap of the exit number, and a lag beyond them. -/
theorem witness_HistoryIsReadByTheLag :
    (Meets .supervisor kindReadHistory fun s f => f.payload = [] ∧ s.HistoryLaw ∧
      (s.verdict.nextExit - s.verdict.readPointer).toNat = 0 ∧ answerOf .readHistory .supervisor s = some [15]) ∧
    (Meets .supervisor kindReadHistory fun s f => f.payload = [] ∧ s.HistoryLaw ∧
      (s.verdict.nextExit - s.verdict.readPointer).toNat = 1 ∧ s.verdict.history.length = 1 ∧
      s.verdict.history[0]?.isSome = true ∧
      (answerOf .readHistory .supervisor s).map (·.take 9) = some [0, 0, 0, 0, 0, 255, 255, 255, 255]) ∧
    (Meets .supervisor kindReadHistory fun s f => f.payload = [] ∧ s.HistoryLaw ∧
      s.verdict.history.length + 2 = (s.verdict.nextExit - s.verdict.readPointer).toNat ∧
      s.verdict.history[0]?.isSome = true ∧
      (answerOf .readHistory .supervisor s).map (·.take 9) = some [0, 0, 0, 0, 2, 0, 0, 0, 5]) ∧
    (Meets .supervisor kindRewind fun s f => f.payload = [] ∧ s.verdict.history[0]?.isSome = true ∧
      answerOf .rewind .supervisor s = some [0, 0, 0, 0, 5]) ∧
    (Meets .supervisor kindRewind fun s f => f.payload = [] ∧ s.verdict.history = [] ∧
      answerOf .rewind .supervisor s = some [0, 0, 0, 0, 1]) :=
  ⟨.of (withHistory 5 6 6) [] (by decide) ⟨rfl, historyLaw_asked 5 6 6 (by decide), by decide +kernel⟩,
    .of (withHistory 0xFFFFFFFF 0 0xFFFFFFFF) [] (by decide) ⟨rfl, historyLaw_asked 0xFFFFFFFF 0 0xFFFFFFFF (by decide +kernel), by decide +kernel⟩,
    .of (withHistory 5 6 3) [] (by decide) ⟨rfl, historyLaw_asked 5 6 3 (by decide), by decide +kernel⟩,
    .of (withHistory 5 6 6) [] (by decide) (by decide +kernel), .of runLine [] (by decide) (by decide +kernel)⟩

theorem witness_ReadPortStatusClearsTheFlags :
    (∀ n ∈ [7, 255], Meets .supervisor kindReadPortStatus fun s f => f.payload = be1 n ∧ 6 < n ∧ n < 256 ∧
      answerOf .readPortStatus .supervisor s = some [7, 1, 0]) ∧
    (∀ c ∈ [(Port.supervisor, 7), (.station .p1, 1), (.station .p6, 4)],
      Meets .supervisor kindReadPortStatus fun s f => f.payload = be1 (portNumber c.1) ∧
        answerOf .readPortStatus .supervisor s = some [0, portNumber c.1, c.2, 5]) :=
  ⟨.each _ (fun _ => runLine) be1 (by decide +kernel),
    .each _ (fun c => runLine.updatePort c.1 fun q => { q with frameError := true, unmatchedEdge := true })
      (fun c => be1 (portNumber c.1)) (by decide +kernel)⟩

/-! ### The collator -/

/-- Port 1 holds the collator; the sets 1 and 65535 are in the queue, and the next set number is as given. -/
def nextIs (n : Nat) (s : State) : State := { s with tracker := { s.tracker with nextNumber := n } }

theorem witness_OpenAppendsAGatheringSet :
    (∀ c ∈ ([(idleLine, [4]), (inState (.halt .run) runLine, [4]),
        (withSets ((List.range 16).map fun k => travelling (k + 1) 0) runLine, [2]),
        (withSets [gathering 1 0] runLine, [1]),
        (withSets [travelling 1 0] (runLine.setSlot .a (.current 1 { nearTarget 3 with inQueue := 1 })), [3])] :
        List (State × List Nat)), Meets (.station .p1) kindOpen fun s f =>
      f.payload = [] ∧ (s.station .p1).role = .collator ∧ answerOf (.openSet .p1) (.station .p1) s = some c.2) ∧
    (∀ c ∈ ([(runLine, [0, 0, 1, 14]), (runLine.setSlot .a (.current 1 (nearTarget 3)), [0, 0, 1, 14]),
        (nextIs 65535 (withSets [travelling 65535 0, travelling 1 0] runLine), [0, 0, 2, 14]),
        (withSets ((List.range 15).map fun k => travelling (k + 2) 0)
          (runLine.setSlot .a (.current 1 { calendarJob with target := 0 })), [0, 0, 1, 14]),
        (withSlots (.draining 1 calendarJob) (.current 2 calendarJob) runLine, [0, 0, 1, 14])] :
        List (State × List Nat)), Meets (.station .p1) kindOpen fun s f =>
      f.payload = [] ∧ (s.station .p1).role = .collator ∧ s.line.state = .run ∧ s.tracker.queue.length < 16 ∧
      (∀ x ∈ s.tracker.queue, x.state ≠ .gathering) ∧ s.plan.currentSlot.isSome = true ∧
      answerOf (.openSet .p1) (.station .p1) s = some c.2) ∧
    runLine.tracker.queue.length ≤ 16 :=
  ⟨.each _ Prod.fst (fun _ => []) (by decide +kernel), .each _ Prod.fst (fun _ => []) (by decide +kernel), by decide⟩

/-- A SHEET's payload. -/
def sheetPayload (n index caliper : Nat) : List Byte := be2 n ++ be1 index ++ be2 caliper

theorem witness_SheetIsRecorded :
    (∀ c ∈ ([(9, 0, [4]), (8, 0, [8]), (1, 0, [4]), (2, 32, [7, 2, 0]), (2, 255, [7, 2, 0]), (2, 4, [13]), (2, 14, [0]),
        (2, 31, [0]), (2, 5, [0]), (2, 13, [0])] : List (Nat × Nat × List Nat)),
      Meets (.station .p1) kindSheet fun s f => f.payload = sheetPayload c.1 c.2.1 160 ∧
        (s.station .p1).role = .collator ∧ s.tracker.lastOpened = some 9 ∧
        answerOf (.sheet .p1) (.station .p1) s = some c.2.2) ∧
    (Meets (.station .p1) kindSheet fun s f => f.payload = sheetPayload 2 7 171 ∧
      (ran (exec (.sheet .p1) s)).map (fun t => (t.findSet 2).map fun x => (x.sheets.drop 5, x.checks)) =
        some (some ([⟨none, .unread, 160⟩, ⟨none, .unread, 160⟩, ⟨some 171, .thick, 171⟩],
          { gaugeGap := true, thick := true }))) ∧
    (∀ c ∈ [(0, .unread, 300), (269, .thin, 300), (270, .ok, 300), (330, .ok, 330), (331, .thick, 331),
        (569, .thick, 569), (570, .double, 570), (4095, .double, 4000)],
      groupOfIndex calendar.groups 0 = some ⟨1, 1, 300, 30⟩ ∧
      sheetEntryOf calendar 0 c.1 = ⟨if c.1 = 0 then none else some (min c.1 4000), c.2.1, c.2.2⟩) :=
  ⟨.each _ (fun _ => withSets [travelling 1 0, gathering 2 5] runLine) (fun c => sheetPayload c.1 c.2.1 160)
      (by decide +kernel),
    .of (withSets [travelling 1 0, gathering 2 5] runLine) (sheetPayload 2 7 171) (by decide) (by decide +kernel),
    by decide +kernel⟩

/-- CLOSE(2) behind a set at the spacing, one count nearer, and with no sheet; and with a capture behind T by the punch's miss
boundary of 420, by one count more, by the gate's close boundary of 3200, and by one count more, by which the set has left. -/
theorem witness_CloseStartsTravel :
    (∀ c ∈ ([(9, [4]), (8, [8]), (1, [4])] : List (Nat × List Nat)),
      Meets (.station .p1) kindClose fun s f => f.payload = be2 c.1 ∧ (s.station .p1).role = .collator ∧
        s.tracker.lastOpened = some 9 ∧ answerOf (.closeSet .p1) (.station .p1) s = some c.2) ∧
    (Meets (.station .p1) kindClose fun s f => f.payload = be2 2 ∧ (s.station .p1).role = .collator ∧
      (s.findSet 2).map (fun x => (x.state, x.sheets)) = some (.gathering, []) ∧
      answerOf (.closeSet .p1) (.station .p1) s = some [15]) ∧
    (∀ c ∈ [(2000, false), (1999, true)], Meets (.station .p1) kindClose fun s f =>
      f.payload = be2 2 ∧ (s.station .p1).role = .collator ∧ f.capture = BitVec.ofNat 32 c.1 ∧ s.tracker.lineConfig.spacing = 2000 ∧
      answerOf (.closeSet .p1) (.station .p1) s = some [0, 1] ∧
      (ran (exec (.closeSet .p1) s)).map (fun t => (t.findSet 2).map fun x => x.checks) =
        some (some { short := true, crowded := c.2 })) ∧
    (∀ c ∈ ([(420, some (some .waiting), 0), (421, some (some .missed), 0), (3200, some (some .missed), 0),
        (3201, none, 1)] : List (Nat × Option (Option Progress) × Nat)), Meets (.station .p1) kindClose fun s f =>
      f.payload = be2 2 ∧ (s.station .p1).role = .collator ∧ (s.position.tracking - f.capture).toNat = c.1 ∧
      answerOf (.closeSet .p1) (.station .p1) s = some [0, 1] ∧
      (ran (exec (.closeSet .p1) s)).map (fun t => ((t.findSet 2).map (·.progress.punch), t.verdict.history.length)) =
        some c.2) :=
  ⟨.each _ (fun _ => withSets [travelling 1 0, gathering 2 5] runLine) (fun c => be2 c.1) (by decide +kernel),
    .of (withSets [gathering 2 0] runLine) (be2 2) (by decide) (by decide +kernel),
    .each _ (fun c => atPosition (BitVec.ofNat 32 c.1) (withSets [travelling 1 0, gathering 2 5] runLine)) (fun _ => be2 2)
      (by decide +kernel),
    .eachBehind _ (atPosition 4294967000 (withSets [gathering 2 5] runLine)) (be2 2)
      (fun c => 4294967000 + BitVec.ofNat 32 c.1) (by decide) (by decide +kernel)⟩

theorem witness_AbandonWithdrawsTheGatheringSet :
    ∀ c ∈ ([(9, [4]), (8, [8]), (1, [4]), (2, [0])] : List (Nat × List Nat)),
      Meets (.station .p1) kindAbandon fun s f => f.payload = be2 c.1 ∧ (s.station .p1).role = .collator ∧
        s.tracker.lastOpened = some 9 ∧ answerOf (.abandon .p1) (.station .p1) s = some c.2 :=
  .each _ (fun _ => withSets [travelling 1 0, gathering 2 5] runLine) (fun c => be2 c.1) (by decide +kernel)

/-- An ordinary plan, an overload lift, and a plan of more than 8 lifts. -/
theorem witness_LiftPlanCoversEverySheet :
    1 ≤ calendar.liftSheets ∧ (gathering 2 5).sheets ≠ [] ∧
    (planLifts calendar (gathering 2 5).sheets).plan = some [⟨0, 5, 800, false⟩] ∧
    (planLifts calendar [⟨some 1801, .thick, 1801⟩]).plan = some [⟨0, 1, 1801, true⟩] ∧
    (planLifts { calendar with liftSheets := 1 } (gathering 2 8).sheets).limit = false ∧
    (planLifts { calendar with liftSheets := 1 } (gathering 2 9).sheets).plan = none := by decide +kernel

/-- The first field that fails, with its group, at the ends of the ranges (R56). -/
theorem test_rangeFailure : ∀ c ∈ ([({ calendar with edge := 4999, pitch := 399 }, 2, 0),
      ({ calendar with pitch := 2001 }, 3, 0), ({ calendar with styleCode := 3 }, 5, 0),
      ({ calendar with gapWidth := 8001 }, 6, 0), ({ calendar with styleCode := 2, drillX := 29701 }, 8, 0),
      ({ calendar with groups := [⟨1, 1, 300, 30⟩, ⟨3, 0, 160, 10⟩, ⟨3, 1, 1400, 40⟩] }, 14, 2),
      ({ calendar with groups := [⟨1, 1, 300, 30⟩, ⟨2, 12, 160, 501⟩, ⟨3, 0, 1400, 40⟩] }, 17, 2)] :
      List (Recipe × Nat × Nat)), rangeFailure c.1 = some ⟨c.2.1, c.2.2⟩ := by decide +kernel

/-- Each of the eleven configuration results, with its port (R96). -/
theorem test_validate_eachResult : ∀ c ∈ ([(lineTable.set .p6 ⟨.collator, 0, 0, 0⟩, 2000, .collatorCount, none),
      (lineTable.set .p2 .reset, 2000, .punchCount, none), (lineTable.set .p4 .reset, 2000, .binderCount, none),
      (lineTable.set .p5 .reset, 2000, .gateCount, none),
      (lineTable.set .p6 ⟨.station .notch, 1500, 1700, 60⟩, 2000, .notchCount, none),
      (lineTable.set .p3 ⟨.station .drill, 1000, 1200, 20⟩, 2000, .drillCount, none),
      ((lineTable.set .p3 ⟨.station .notch, 20, 1200, 20⟩).set .p6 ⟨.station .drill, 60, 1700, 60⟩, 2000, .windowOpen, some .p3),
      (lineTable.set .p2 ⟨.station .punch, 400, 419, 20⟩, 2000, .windowClose, some .p2),
      ((lineTable.set .p3 ⟨.station .notch, 1800, 1900, 20⟩).set .p2 ⟨.station .punch, 1800, 1900, 20⟩, 2000, .finishOrder,
        some .p2),
      (lineTable.set .p6 ⟨.station .drill, 1500, 2961, 60⟩, 2000, .gateClearance, some .p6),
      (lineTable, 120, .spacing, none), (lineTable, 121, .ok, none)] :
      List (PerStation Station × Nat × ConfigResult × Option StationPort)),
    validate c.1 ⟨1, 200, c.2.1, 0⟩ = ⟨c.2.2.1, c.2.2.2⟩ := by decide +kernel

/-! ### Hole plans -/

theorem fits_die48 : die48.Fits := by unfold Die.Fits; decide

/-- The error that a computation ends with. -/
def planErrorOf (r : Recipe) (die : Option Die) (table : PerStation Station) : Option StageError :=
  match computePlan r die table with
  | .error e => some e
  | .ok _ => none

/-- Each plan error, on a recipe in range (R57 to R61, R65, R67, R69, R70). -/
theorem test_planErrors : ∀ c ∈ ([({ calendar with groupCount := 1, groups := [⟨1, 1, 300, 30⟩] }, none, lineTable, .sheetList),
      ({ calendar with liftCapacity := 1399 }, none, lineTable, .liftCapacity), (calendar, none, lineTable, .dieAbsent),
      ({ calendar with pitch := 846 }, some die48, lineTable, .pitchMismatch),
      ({ calendar with edge := 10000, margin := 5000 }, some die48, lineTable, .margin),
      ({ calendar with edge := 10846, margin := 5000 }, some die48, lineTable, .tooFewHoles),
      (calendar, some { die48 with offset := 0, travel := 0 }, lineTable, .guideRange),
      (calendar, some die48, lineTable.set .p3 .reset, .stationAbsent),
      ({ calendar with gapWidth := 0, gapClearance := 0 }, some die48, lineTable, .gapNarrow),
      ({ calendar with gapWidth := 8000, edge := 9000 }, some die48, lineTable, .segmentShort)] :
      List (Recipe × Option Die × PerStation Station × PlanError)),
    rangeFailure c.1 = none ∧ planErrorOf c.1 c.2.1 c.2.2.1 = some (.plan c.2.2.2) := by decide +kernel

/-- An absent die is the first stage that finds an error; with the die of section 4.13 no stage does. -/
theorem witness_HolePlanGeometry :
    rangeFailure calendar = none ∧ PlanFails calendar none lineTable .dieAbsent ∧
    (∀ before, planErrorByte before < planErrorByte .dieAbsent → ¬PlanFails calendar none lineTable before) ∧
    (∀ d, some die48 = some d → d.Fits) ∧ ∀ e, ¬PlanFails calendar (some die48) lineTable e := by
  refine ⟨by decide, rfl, fun e earlier => ?_, fun d same => Option.some.inj same ▸ fits_die48, fun e => ?_⟩
  · cases e <;> simp only [planErrorByte] at earlier <;> first | omega | (unfold PlanFails; decide)
  · cases e <;> unfold PlanFails
    case guideRange =>
      rintro ⟨d, same, noPin⟩
      obtain rfl := Option.some.inj same
      exact noPin 7 (by unfold AllowedPin; decide +kernel)
    case stationAbsent =>
      rintro (⟨_, absent⟩ | ⟨drill, _⟩)
      · exact absent .p3 rfl
      · exact absurd drill (by decide)
    case gapNarrow =>
      rintro ⟨_, d, same, noHole⟩
      obtain rfl := Option.some.inj same
      exact noHole 15 (by unfold RemovedHole; decide +kernel)
    case segmentShort =>
      rintro ⟨_, d, i, same, removed, near⟩
      obtain rfl := Option.some.inj same
      have kept : ∀ i < 34, (i < 2 ∨ 34 ≤ i + 2) → ¬RemovedHole calendar die48 i := by
        unfold RemovedHole
        decide +kernel
      exact kept i (show i < rowHoles calendar die48 from removed.1) near removed
    case pitchMismatch =>
      rintro ⟨d, same, differ⟩
      obtain rfl := Option.some.inj same
      exact differ rfl
    all_goals decide

/-- The recipes of style CUT, DRILL and NONE, and one whose natural hole count is above the die's pins, have plans. -/
theorem witness_HolePlanGeometry_HolePlanEngagesOnePinForEachLoop :
    die48.Fits ∧ (⟨8, 847, 20000, 20000⟩ : Die).Fits ∧ ∀ c ∈ ([(calendar, die48, false), ({ calendar with styleCode := 2, drillX := 14850, drillY := 300 }, die48, false),
        ({ calendar with styleCode := 0 }, die48, false), ({ calendar with styleCode := 0 }, ⟨8, 847, 20000, 20000⟩, true)] :
        List (Recipe × Die × Bool)),
      (computePlan c.1 (some c.2.1) lineTable).toOption.map (·.clamped) = some c.2.2 :=
  ⟨fits_die48, by unfold Die.Fits; decide, by decide +kernel⟩

/-! ### The stations -/

/-- A set whose edge is expected at 400 after its entry: a candidate at both ends of the window, none beyond. -/
theorem witness_ChosenSetIsTheNearestCandidate :
    (∀ p ∈ [380, 400, 420],
      (chosenSet [travelling 1 0] (lineTable.get .p2) .punch (BitVec.ofNat 32 p)).map (·.number) = some 1) ∧
    (∀ p ∈ [379, 421], chosenSet [travelling 1 0] (lineTable.get .p2) .punch (BitVec.ofNat 32 p) = none) ∧
    (travelling 1 0).state = .travelling 0 := by decide +kernel

/-- The station port of the line's table for a role. -/
def portOf : StationRole → StationPort
  | .punch => .p2
  | .notch => .p3
  | .drill => .p6
  | .binder => .p4
  | .gate => .p5

/-- The line at the expected edge of a station, with one travelling set. -/
def arriving (r : StationRole) (x : SetRecord) : State :=
  atPosition (BitVec.ofNat 32 ((lineTable.get (portOf r)).arrive + 3)) (withSets [x] runLine)

/-- An EDGE with lag 3 at each station: PASS; PUNCH and SKIP; NOTCH; DRILL; BIND and WITHHOLD; GATE. The answers' codes and
action bytes. -/
theorem witness_EdgeIsMatched :
    (∀ c ∈ ([(.drill, travelling 1 0, 10),
        (.punch, travelling 1 0, 0), (.punch, { travelling 1 0 with checks := { liftOverload := true } }, 0),
        (.notch, travelling 1 0, 0), (.drill, { travelling 1 0 with progress := { untouched with drill := some .waiting } }, 0),
        (.binder, { travelling 1 0 with progress := { untouched with punch := some (.done none) } }, 0),
        (.binder, travelling 1 0, 0), (.gate, travelling 1 0, 0)] : List (StationRole × SetRecord × Nat)),
      Meets (.station (portOf c.1)) kindEdge fun s f => f.payload = be1 3 ∧
        (s.station (portOf c.1)).role = .station c.1 ∧
        chosenSet s.tracker.queue (s.station (portOf c.1)) c.1 (f.capture - BitVec.ofNat 32 3) = some c.2.1 ∧
        (answerOf (.edge (portOf c.1)) (.station (portOf c.1)) s).map (·.take 1) = some [c.2.2]) ∧
    (travelling 1 0).liftPlan = some [⟨0, 1, 305, false⟩] ∧ (runLine.slotPlan .a).notch = some (14850, 3000) ∧
    (∃ s : State, (s.slotPlan .a).drill = some (14850, 300)) ∧
    ((travelling 1 0).progress.get .drill = some .passing ∧ (travelling 1 0).progress.get .gate = some .waiting) :=
  ⟨.each _ (fun c => arriving c.1 c.2.1) (fun _ => be1 3) (by decide +kernel), by decide +kernel, by decide +kernel,
    ⟨withSlots (.current 1 { calendarJob with plan := { calendarPlan with drill := some (14850, 300) } }) .free runLine,
      by decide +kernel⟩, by decide +kernel⟩

theorem witness_EdgeWithoutCandidateIsUnmatched :
    ∀ c ∈ ([(.punch, 0, [9, 0]), (.gate, 255, [9, 2])] : List (StationRole × Nat × List Nat)),
      Meets (.station (portOf c.1)) kindEdge fun s f => f.payload = be1 c.2.1 ∧
        (s.station (portOf c.1)).role = .station c.1 ∧
        chosenSet s.tracker.queue (s.station (portOf c.1)) c.1 (f.capture - BitVec.ofNat 32 c.2.1) = none ∧
        answerOf (.edge (portOf c.1)) (.station (portOf c.1)) s = some c.2.2 :=
  .each _ (fun _ => withSets [travelling 1 0] runLine) (fun c => be1 c.2.1) (by decide +kernel)

/-- The line with a set whose entry for a role is as given. -/
def withEntry (r : StationRole) (q : Progress) : State := withProgress (untouched.set r q)

/-- A report, its port, its kind, its payload, the state it finds, and its answer. -/
def reportCases : List (Instr × StationPort × Byte × List Byte × State × List Nat) :=
  [(.fault .p2, .p2, kindFault, be2 1 ++ be1 0, withProgress untouched, [7, 2, 0]),
    (.diverted .p5, .p5, kindDiverted, be2 1 ++ be1 0, withProgress untouched, [7, 2, 0]),
    (.diverted .p5, .p5, kindDiverted, be2 1 ++ be1 4, withProgress untouched, [7, 2, 0]),
    (.done .p1, .p1, kindDone, be2 65535, withProgress untouched, [8, 255, 255]),
    (.lift .p2, .p2, kindLift, be2 2 ++ be1 0, withProgress untouched, [8, 0, 2]),
    (.lift .p3, .p3, kindLift, be2 1 ++ be1 0, withProgress untouched, [5, 0, 1]),
    (.done .p2, .p2, kindDone, be2 1, withProgress untouched, [5, 0, 1]),
    (.done .p1, .p1, kindDone, be2 1, withProgress untouched, [5, 0, 1]),
    (.fault .p5, .p5, kindFault, be2 1 ++ be1 1, withProgress untouched, [5, 0, 1]),
    (.diverted .p2, .p2, kindDiverted, be2 1 ++ be1 1, withProgress untouched, [5, 0, 1]),
    (.lift .p2, .p2, kindLift, be2 1 ++ be1 0, withProgress untouched, [11, 0, 1]),
    (.done .p6, .p6, kindDone, be2 1, withProgress untouched, [11, 0, 1]),
    (.diverted .p5, .p5, kindDiverted, be2 1 ++ be1 3, withProgress untouched, [11, 0, 1]),
    (.done .p3, .p3, kindDone, be2 1, withEntry .notch .unconfirmed, [12, 0, 1]),
    (.lift .p2, .p2, kindLift, be2 1 ++ be1 0, withEntry .punch (.done none), [13, 0, 1]),
    (.fault .p4, .p4, kindFault, be2 1 ++ be1 255, withEntry .binder (.fault 3), [13, 0, 1]),
    (.fault .p2, .p2, kindFault, be2 1 ++ be1 1, withEntry .punch .skipped, [13, 0, 1]),
    (.done .p4, .p4, kindDone, be2 1, withEntry .binder .withheld, [13, 0, 1]),
    (.done .p6, .p6, kindDone, be2 1, withEntry .drill .passed, [13, 0, 1]),
    (.diverted .p5, .p5, kindDiverted, be2 1 ++ be1 1, withEntry .gate .missed, [13, 0, 1])]

theorem witness_ReportsAreTestedInOrder :
    ∀ c ∈ reportCases, Meets (.station c.2.1) c.2.2.1 fun s f =>
      c.1 ∈ [Instr.lift c.2.1, Instr.done c.2.1, Instr.fault c.2.1, Instr.diverted c.2.1] ∧
      requestOf c.1 = some (.station c.2.1, f.kind) ∧ lengthFits f.kind f.payload = true ∧
      answerOf c.1 (.station c.2.1) s = some c.2.2.2.2.2 :=
  .each _ (fun c => c.2.2.2.2.1) (fun c => c.2.2.2.1) (by decide +kernel)

/-- The wrong index, the next one, and the next one as the last of the plan. -/
theorem witness_LiftsAreCountedInOrder :
    ∀ c ∈ ([(1, 1, [14, 0, 1, 0]), (255, 1, [14, 0, 1, 0]), (0, 1, [0, 0, 1, 1]), (0, 2, [0, 0, 1, 1])] :
        List (Nat × Nat × List Nat)), Meets (.station .p2) kindLift fun s f =>
      f.payload = be2 1 ++ be1 c.1 ∧ (s.station .p2).role = .station .punch ∧
      (s.findSet 1).map (fun x => (x.progress.punch, x.liftsDone)) = some (some .atStation, 0) ∧
      (s.findSet 1).map (fun x => x.liftPlan.map List.length) = some (some c.2.1) ∧
      answerOf (.lift .p2) (.station .p2) s = some c.2.2 :=
  .each _ (fun c => withSets [{ travelling 1 0 with
      progress := untouched.set .punch .atStation, liftPlan := some (List.replicate c.2.1 ⟨0, 1, 305, false⟩) }] runLine)
    (fun c => be2 1 ++ be1 c.1) (by decide +kernel)

theorem witness_DoneAndFaultFinishTheWork :
    (∀ r ∈ ([.notch, .drill, .binder] : List StationRole), Meets (.station (portOf r)) kindDone fun s f =>
      f.payload = be2 1 ∧ (s.station (portOf r)).role = .station r ∧
      (s.findSet 1).map (fun x => x.progress.get r) = some (some .atStation) ∧
      answerOf (.done (portOf r)) (.station (portOf r)) s = some [0, 0, 1]) ∧
    (∀ c ∈ ([(.punch, 1), (.notch, 255), (.drill, 2), (.binder, 1)] : List (StationRole × Nat)),
      Meets (.station (portOf c.1)) kindFault fun s f => f.payload = be2 1 ++ be1 c.2 ∧ 0 < c.2 ∧ c.2 < 256 ∧
        (s.station (portOf c.1)).role = .station c.1 ∧ c.1 ≠ .gate ∧
        (s.findSet 1).map (fun x => x.progress.get c.1) = some (some .atStation) ∧
        answerOf (.fault (portOf c.1)) (.station (portOf c.1)) s = some [0, 0, 1]) :=
  ⟨.each _ (fun r => withEntry r .atStation) (fun _ => be2 1) (by decide +kernel),
    .each _ (fun c => withEntry c.1 .atStation) (fun c => be2 1 ++ be1 c.2) (by decide +kernel)⟩

theorem witness_DivertedRecordsTheTakenOutlet :
    ∀ c ∈ ([(.accept, .accept, .run), (.rework, .rework, .run), (.accept, .reject, .halt .run)] :
        List (GateOutlet × GateOutlet × LineState)), Meets (.station .p5) kindDiverted fun s f =>
      f.payload = be2 1 ++ be1 (gateOutletByte c.1) ∧ (s.station .p5).role = .station .gate ∧
      (s.findSet 1).map (fun x => (x.progress.gate, x.commanded)) = some (some .atStation, some c.2.1) ∧
      (ran (exec (.diverted .p5) s)).map (fun t => t.line.state) = some c.2.2 :=
  .each _ (fun c => withSets [{ travelling 1 0 with
      progress := untouched.set .gate .atStation, commanded := some c.2.1 }] runLine)
    (fun c => be2 1 ++ be1 (gateOutletByte c.1)) (by decide +kernel)

/-- The empty word under a rule that would match it; a second rule of a list; no rule that matches. -/
theorem witness_CommandedOutletIsTheFirstMatch :
    (∀ c ∈ allChecks, ({} : CheckWord).has c = false) ∧
    commandedOutlet [⟨.all, {}, .rework⟩] {} = .accept ∧
    ({ punchFault := true } : CheckWord).has .punchFault = true ∧
    commandedOutlet [⟨.any, { thick := true }, .accept⟩, reworkRule] { punchFault := true } = .rework ∧
    ([⟨.any, { thick := true }, .accept⟩, reworkRule] : List VerdictRule) =
      [⟨.any, { thick := true }, .accept⟩] ++ reworkRule :: [] ∧
    commandedOutlet [⟨.any, { thick := true }, .accept⟩] { punchFault := true } = .reject := by decide +kernel

/-! ### The laws -/

/-- A line at work, with sets in the queue and a command that waits. -/
def workingLine : State := { withSets [travelling 1 0, gathering 2 0] runLine with pending := [.supplyLoss] }

theorem lawful_workingLine : workingLine.Lawful :=
  ⟨fun p => by cases p with
      | supervisor => decide +kernel
      | station q => cases q <;> decide +kernel,
    ⟨by unfold State.QueueLaw; decide +kernel, by unfold State.IdleLaw; decide +kernel,
      (rfl : workingLine.recordsOf .a = _), (rfl : workingLine.recordsOf .b = _),
      by unfold PlanUnit.Distinct; decide +kernel⟩,
    fun i => by cases i <;> decide +kernel, fun i => by cases i <;> decide +kernel,
    ⟨by decide +kernel, fun k e found => by
      simp [workingLine, withSets, runLine, idleLine, State.reset, State.afterReset, VerdictUnit.reset] at found⟩,
    by unfold State.RunLaw; decide +kernel, fun _ => by decide +kernel,
    ⟨fun p => by cases p <;> decide +kernel, by decide +kernel, by decide +kernel⟩,
    fun d present => by
      have : some die48 = some d := present
      injection this with this
      exact this ▸ fits_die48,
    by unfold State.OutputLaw; decide +kernel⟩

/-- A state under every law steps. -/
theorem witness_StepKeeps : ∃ s t : State, s.Lawful ∧ step s = .next t ∧ t.pending = [] :=
  ⟨workingLine, _, lawful_workingLine, rfl, rfl⟩

end Sys2Proof.Tests
end

/-! ### SET DIE (R54) -/

section
namespace Sys2Proof.Machine

/-! The first die field that fails: the two sides of each field's range, as the fields before it pass (R53, R54). -/

theorem inRange_iff (lo hi x : Nat) : inRange lo hi x = true ↔ lo ≤ x ∧ x ≤ hi := by simp [inRange]

theorem dieFailure_pins {d : Die} (pins : ¬(8 ≤ d.pins ∧ d.pins ≤ 64)) : dieFailure d = some ⟨1, 0⟩ := by
  simp [dieFailure, firstFailure, inRange_iff, pins]

theorem dieFailure_pitch {d : Die} (pins : 8 ≤ d.pins ∧ d.pins ≤ 64) (pitch : ¬(400 ≤ d.pitch ∧ d.pitch ≤ 2000)) :
    dieFailure d = some ⟨2, 0⟩ := by
  simp [dieFailure, firstFailure, inRange_iff, pins, pitch]

theorem dieFailure_offset {d : Die} (pins : 8 ≤ d.pins ∧ d.pins ≤ 64) (pitch : 400 ≤ d.pitch ∧ d.pitch ≤ 2000)
    (offset : 20000 < d.offset) : dieFailure d = some ⟨3, 0⟩ := by
  simp [dieFailure, firstFailure, inRange_iff, pins, pitch, offset]

theorem dieFailure_travel {d : Die} (pins : 8 ≤ d.pins ∧ d.pins ≤ 64) (pitch : 400 ≤ d.pitch ∧ d.pitch ≤ 2000)
    (offset : d.offset ≤ 20000) (travel : 20000 < d.travel) : dieFailure d = some ⟨4, 0⟩ := by
  simp [dieFailure, firstFailure, inRange_iff, pins, pitch, offset, travel]

theorem dieFailure_eq_none {d : Die} (fits : d.Fits) : dieFailure d = none := by
  obtain ⟨pins, pitch, offset, travel⟩ := fits
  simp [dieFailure, firstFailure, inRange_iff, pins, pitch, offset, travel]

theorem isSetup_iff (l : LineState) : l.isSetup = true ↔ l = .unconfigured ∨ l = .idle := by
  cases l <;> simp [LineState.isSetup]

theorem stagedSlot_isSome (u : PlanUnit) :
    u.stagedSlot.isSome = decide (u.slotA.isStaged = true ∨ u.slotB.isStaged = true) := by
  unfold PlanUnit.stagedSlot PlanUnit.findSlot
  cases u.slotA.isStaged <;> cases u.slotB.isStaged <;> rfl

/-! What the plan unit makes of a SET DIE: refused by the line, refused by a field, or taken. -/

theorem setDieRequest_refused {s : State} (d : Die) (setup : ¬(s.line.state = .unconfigured ∨ s.line.state = .idle)) :
    setDieRequest d s = (s, .bare .state) := by
  simp [setDieRequest, mt (isSetup_iff _).1 setup]

theorem setDieRequest_outOfRange {s : State} {d : Die} {e : FieldRef}
    (setup : s.line.state = .unconfigured ∨ s.line.state = .idle) (fails : dieFailure d = some e) :
    setDieRequest d s = (s, .range e.field e.group) := by
  simp [setDieRequest, (isSetup_iff _).2 setup, fails]

theorem setDieRequest_taken {s : State} {d : Die} (setup : s.line.state = .unconfigured ∨ s.line.state = .idle)
    (fits : d.Fits) :
    setDieRequest d s = ({ s with plan := { s.plan.discardStaged with die := some d } },
      ⟨.ok, be1 (if s.plan.slotA.isStaged ∨ s.plan.slotB.isStaged then 1 else 0)⟩) := by
  have discarded : beBool s.plan.stagedSlot.isSome =
      be1 (if s.plan.slotA.isStaged ∨ s.plan.slotB.isStaged then 1 else 0) := by
    rw [stagedSlot_isSome, beBool]
    by_cases staged : s.plan.slotA.isStaged = true ∨ s.plan.slotB.isStaged = true
    · rw [if_pos staged, decide_eq_true staged, Bool.toNat_true]
    · rw [if_neg staged, decide_eq_false staged, Bool.toNat_false]
  simp [setDieRequest, (isSetup_iff _).2 setup, dieFailure_eq_none fits, discarded]

/-- The command SET DIE has the effect of its request, followed by the reply. -/
theorem exec_setDie {s : State} {f : Frame} {rest : List Frame} {d : Die} (taking : s.Taking .supervisor f rest)
    (kind : f.kind = kindSetDie) (payload : parseSetDie f.payload = some d) :
    exec .setDie s = .next ((setDieRequest d s).1.reply .supervisor f rest (setDieRequest d s).2) := by
  obtain ⟨k, bytes, capture⟩ := f
  obtain rfl : k = kindSetDie := kind
  exact takeSupervisor_answered taking payload (setDieRequest_withPorts d)

/-- Settles O22: the request's three outcomes, each carried to the command by `exec_setDie`. -/
theorem setDieIsTaken : Obligations.SetDieIsTaken := by
  unfold Obligations.SetDieIsTaken
  intro s f rest d taking kind payload hpins hpitch hoffset htravel
  have read : parseSetDie f.payload = some d := by
    rw [payload]
    exact parseSetDie_bytes hpins hpitch hoffset htravel
  rw [exec_setDie taking kind read]
  refine ⟨fun busy => ?_, fun setup => ⟨fun pins => ?_, fun pins pitch => ?_, fun pins pitch offset => ?_,
    fun pins pitch offset travel => ?_, fun pins pitch offset travel => ?_⟩⟩
  · rw [setDieRequest_refused d (not_or.2 busy)]
  · rw [setDieRequest_outOfRange setup (dieFailure_pins pins)]
  · rw [setDieRequest_outOfRange setup (dieFailure_pitch pins pitch)]
  · rw [setDieRequest_outOfRange setup (dieFailure_offset pins pitch offset)]
  · rw [setDieRequest_outOfRange setup (dieFailure_travel pins pitch offset travel)]
  · rw [setDieRequest_taken setup ⟨pins, pitch, offset, travel⟩]
    rfl

end Sys2Proof.Machine
end

/-! ### The pins and the loops of a computed plan (R72, R73) -/

section
namespace Sys2Proof.Machine

/-- A row that is placed keeps the die, has two holes or more, and ends within the die's pins (R61, R62, R65). -/
theorem placeRow_eq_ok {r : Recipe} {d die : Die} {n k0 : Nat} (fits : d.Fits)
    (placed : placeRow r (some d) = .ok (die, n, k0)) : die = d ∧ 2 ≤ n ∧ k0 + n ≤ d.pins := by
  obtain ⟨pins, -⟩ := fits
  simp only [placeRow] at placed
  by_cases pitch : r.pitch ≠ d.pitch
  · rw [if_pos pitch] at placed
    cases placed
  by_cases margin : usableLength r ≤ 0
  · rw [if_neg pitch, if_pos margin] at placed
    cases placed
  by_cases few : naturalHoles r < 2
  · rw [if_neg pitch, if_neg margin, if_pos few] at placed
    cases placed
  rw [if_neg pitch, if_neg margin, if_neg few] at placed
  cases found : firstPin r d (holeCount r d) with
  | none =>
    rw [found] at placed
    cases placed
  | some k =>
    simp only [found, Except.ok.injEq, Prod.mk.injEq] at placed
    obtain ⟨rfl, rfl, rfl⟩ := placed
    have holes : holeCount r d = (min (naturalHoles r) d.pins).toNat := rfl
    obtain ⟨-, high, low, -⟩ := firstPin_nearest (by omega) found
    have last : highestPin r d (holeCount r d) ≤ (d.pins : Int) - holeCount r d := Int.min_le_left ..
    exact ⟨rfl, by omega, by omega⟩

/-- The segments of a hanger plan: the whole row when no run is removed; otherwise the holes before the run and those
behind it, two or more of each (R70, R71, R72). -/
def HangerPlan.CutsRow (h : HangerPlan) (n : Nat) : Prop :=
  (h.removed = none ∧ h.segments.map (·.loops) = [n]) ∨
  ∃ first count, h.removed = some (first, count) ∧ 2 ≤ first ∧ first + count + 2 ≤ n ∧
    h.segments.map (·.loops) = [first, n - (first + count)]

theorem planCut_cutsRow {r : Recipe} {n : Nat} {table : PerStation Station} {h : HangerPlan}
    (cut : planCut r n table = .ok h) : h.CutsRow n := by
  unfold planCut at cut
  by_cases absent : (!rolePresent table .notch) = true
  · rw [if_pos absent] at cut
    cases cut
  rw [if_neg absent] at cut
  cases run : removedRun r n with
  | none =>
    rw [run] at cut
    cases cut
  | some run' =>
    obtain ⟨first, count⟩ := run'
    simp only [run] at cut
    by_cases short : first < 2 ∨ n < first + count + 2
    · rw [if_pos short] at cut
      cases cut
    · rw [if_neg short] at cut
      cases cut
      exact .inr ⟨first, count, rfl, by omega, by omega, rfl⟩

theorem planHanger_cutsRow {r : Recipe} {n : Nat} {table : PerStation Station} {h : HangerPlan}
    (hanger : planHanger r n table = .ok h) : h.CutsRow n := by
  unfold planHanger at hanger
  cases style : r.style <;> simp only [style] at hanger
  case cut => exact planCut_cutsRow hanger
  case drill =>
    by_cases absent : (!rolePresent table .drill) = true
    · rw [if_pos absent] at hanger
      cases hanger
    · rw [if_neg absent] at hanger
      cases hanger
      exact .inl ⟨rfl, rfl⟩
  case none =>
    cases hanger
    exact .inl ⟨rfl, rfl⟩

/-- A computed plan is the record of a row within the die's pins and of a hanger plan that cuts this row (R57, R75). -/
theorem computePlan_eq_ok {r : Recipe} {d : Die} {table : PerStation Station} {plan : HolePlan} (fits : d.Fits)
    (computed : computePlan r (some d) table = .ok plan) :
    ∃ n k0 h, plan = buildPlan r d n k0 h ∧ 2 ≤ n ∧ k0 + n ≤ d.pins ∧ h.CutsRow n := by
  unfold computePlan at computed
  cases range : rangeFailure r <;> simp only [range, reduceCtorEq] at computed
  cases sheets : sheetChecks r <;> simp only [sheets, reduceCtorEq] at computed
  cases placed : placeRow r (some d) with
  | error e => simp only [placed, reduceCtorEq] at computed
  | ok row =>
    obtain ⟨die, n, k0⟩ := row
    obtain ⟨rfl, two, within⟩ := placeRow_eq_ok fits placed
    simp only [placed] at computed
    cases hanger : planHanger r n table with
    | error e => simp only [hanger, reduceCtorEq] at computed
    | ok h =>
      simp only [hanger, Except.ok.injEq] at computed
      exact ⟨n, k0, h, computed.symm, two, within, planHanger_cutsRow hanger⟩

/-! The pin map -/

/-- What the pin map holds for pin `k`: ENGAGED for the pin of a hole that is kept (R72). -/
def pinEngaged (n k0 : Nat) (run : Option (Nat × Nat)) (k : Nat) : Bool :=
  k0 ≤ k && k < k0 + n && !inRun run (k - k0)

theorem pinMap_eq (d : Die) (n k0 : Nat) (run : Option (Nat × Nat)) :
    pinMap d n k0 run = (List.range d.pins).map (pinEngaged n k0 run) := rfl

theorem pinEngaged_iff (n k0 : Nat) (run : Option (Nat × Nat)) (k : Nat) :
    pinEngaged n k0 run k = true ↔
      ∃ i, i < n ∧ k = k0 + i ∧ ∀ first count, run = some (first, count) → i < first ∨ first + count ≤ i := by
  have kept : ∀ i, inRun run i = false ↔ ∀ first count, run = some (first, count) → i < first ∨ first + count ≤ i := by
    intro i
    cases run with
    | none => simp [inRun]
    | some run' =>
      obtain ⟨first, count⟩ := run'
      simp only [inRun, Bool.and_eq_false_iff, decide_eq_false_iff_not, Option.some.injEq, Prod.mk.injEq]
      constructor
      · rintro outside _ _ ⟨rfl, rfl⟩
        omega
      · intro outside
        have := outside first count ⟨rfl, rfl⟩
        omega
  simp only [pinEngaged, Bool.and_eq_true, decide_eq_true_eq, Bool.not_eq_true', kept]
  constructor
  · rintro ⟨⟨low, high⟩, outside⟩
    exact ⟨k - k0, by omega, by omega, outside⟩
  · rintro ⟨i, row, rfl, outside⟩
    exact ⟨⟨by omega, by omega⟩, by simpa using outside⟩

theorem length_pinMap (d : Die) (n k0 : Nat) (run : Option (Nat × Nat)) : (pinMap d n k0 run).length = d.pins := by
  simp [pinMap_eq]

theorem getElem?_pinMap {d : Die} {k : Nat} (pin : k < d.pins) (n k0 : Nat) (run : Option (Nat × Nat)) :
    (pinMap d n k0 run)[k]? = some (pinEngaged n k0 run k) := by
  simp [pinMap_eq, pin]

/-- Below `n` lie the numbers of an interval less those of an interval inside it. -/
theorem countP_range_interval {test : Nat → Bool} {low first last high : Nat} (inside : low ≤ first ∧ first ≤ last)
    (reads : ∀ k, test k = true ↔ (low ≤ k ∧ k < high) ∧ ¬(first ≤ k ∧ k < last)) (ends : last ≤ high) (n : Nat) :
    (List.range n).countP test = (min n high - low) - (min n last - first) := by
  induction n with
  | zero => simp
  | succ n ih =>
    have read := reads n
    rw [List.range_succ, List.countP_append, ih, List.countP_singleton]
    by_cases counted : test n = true
    · rw [if_pos counted]
      have := read.1 counted
      omega
    · rw [if_neg counted]
      have := mt read.2 counted
      omega

/-- The engaged pins are as many as the holes of the row outside the removed run, which here goes from hole `first` up to
hole `last`. -/
theorem length_engaged_pinMap {d : Die} {n k0 first last : Nat} {run : Option (Nat × Nat)} (within : k0 + n ≤ d.pins)
    (reads : ∀ i, inRun run i = true ↔ first ≤ i ∧ i < last) (inside : first ≤ last ∧ last ≤ n) :
    ((pinMap d n k0 run).filter id).length = n - (last - first) := by
  have engaged : ∀ k, pinEngaged n k0 run k = true ↔
      (k0 ≤ k ∧ k < k0 + n) ∧ ¬(k0 + first ≤ k ∧ k < k0 + last) := by
    intro k
    have read := reads (k - k0)
    simp only [pinEngaged, Bool.and_eq_true, decide_eq_true_eq, Bool.not_eq_true', ← Bool.not_eq_true, read]
    omega
  have counted := countP_range_interval ⟨by omega, by omega⟩ engaged (by omega) d.pins
  rw [pinMap_eq, ← List.countP_eq_length_filter, List.countP_map, Function.id_comp, counted]
  omega

/-- With no removed run the engaged pins are those of the whole row. -/
theorem length_engaged_whole {d : Die} {n k0 : Nat} (within : k0 + n ≤ d.pins) :
    ((pinMap d n k0 none).filter id).length = n :=
  length_engaged_pinMap (first := 0) (last := 0) within (fun i => by simp [inRun]) ⟨by omega, by omega⟩

/-- With a removed run inside the row the engaged pins are those of the row without those of the run. -/
theorem length_engaged_cut {d : Die} {n k0 first count : Nat} (within : k0 + n ≤ d.pins) (inside : first + count ≤ n) :
    ((pinMap d n k0 (some (first, count))).filter id).length = n - count := by
  have engaged := length_engaged_pinMap (run := some (first, count)) (first := first) (last := first + count) within
    (fun i => by simp only [inRun, Bool.and_eq_true, decide_eq_true_eq]) ⟨by omega, inside⟩
  rw [engaged, Nat.add_sub_cancel_left]

/-- A hanger plan that cuts the row has one loop for each engaged pin, and every segment has two loops or more. -/
theorem HangerPlan.CutsRow.loops {h : HangerPlan} {d : Die} {n k0 : Nat} (cuts : h.CutsRow n) (two : 2 ≤ n)
    (within : k0 + n ≤ d.pins) :
    ((pinMap d n k0 h.removed).filter id).length = (h.segments.map (·.loops)).sum ∧
      ∀ l ∈ h.segments.map (·.loops), 2 ≤ l := by
  obtain ⟨whole, loops⟩ | ⟨first, count, cut, before, behind, loops⟩ := cuts
  · rw [whole, loops, length_engaged_whole within]
    simp [two]
  · rw [cut, loops, length_engaged_cut within (by omega)]
    simp only [List.sum_cons, List.sum_nil, List.mem_cons, List.not_mem_nil, or_false, forall_eq_or_imp, forall_eq]
    omega

/-- Settles O47: the pins and the loops of `buildPlan` are counted over the same row. -/
theorem holePlanEngagesOnePinForEachLoop : Obligations.HolePlanEngagesOnePinForEachLoop := by
  unfold Obligations.HolePlanEngagesOnePinForEachLoop
  intro r d table plan fits computed
  obtain ⟨n, k0, h, rfl, two, within, cuts⟩ := computePlan_eq_ok fits computed
  obtain ⟨loops, atLeast⟩ := cuts.loops two within
  refine ⟨loops, List.forall_mem_map.1 atLeast, length_pinMap .., fun k pin => ?_⟩
  simp only [buildPlan, getElem?_pinMap pin, Option.some.injEq]
  exact pinEngaged_iff n k0 h.removed k

end Sys2Proof.Machine
end

/-! ### END JOB and DISCARD (R82, R90) -/

section
namespace Sys2Proof.Machine

/-- The effect of a supervisor request without parameters that is taken, for a block that does not see the ports. -/
theorem takeSupervisor_noParameters {kind : Byte} {act : Unit → State → Reply} {s : State} {f : Frame}
    {rest : List Frame} (taking : s.Taking .supervisor f rest) (ofKind : f.kind = kind) (payload : f.payload = [])
    (unseen : ∀ (s : State) (v : PerPort PortState), act () (s.withPorts v) = Reply.withPorts (act () s) v) :
    takeSupervisor kind parseNone act s = .next ((act () s).1.reply .supervisor f rest (act () s).2) := by
  obtain ⟨k, bytes, capture⟩ := f
  obtain rfl : k = kind := ofKind
  obtain rfl : bytes = [] := payload
  exact takeSupervisor_answered taking rfl unseen

/-! The line's release: from DRAIN with an empty queue to IDLE, with the CURRENT slot FREE (R88). -/

theorem State.releaseLine_of_empty {s : State} (drain : s.line.state = .drain) (empty : s.tracker.queue = []) :
    s.releaseLine = { s with plan := s.plan.freeCurrent, line := { s.line with state := .idle } } :=
  if_pos ⟨drain, empty⟩

theorem State.releaseLine_of_nonempty {s : State} (waiting : s.tracker.queue ≠ []) : s.releaseLine = s :=
  if_neg fun release => waiting release.2

/-! What line control makes of an END JOB in each line state (R90). -/

theorem endJobRequest_setup {s : State} (setup : s.line.state = .unconfigured ∨ s.line.state = .idle) :
    endJobRequest () s = (s, .bare .state) := by
  obtain state | state := setup <;> simp only [endJobRequest, state]

theorem endJobRequest_run {s : State} (run : s.line.state = .run) :
    endJobRequest () s = (({ s with line := { s.line with state := .drain } } : State).releaseLine, .bare .ok) := by
  simp only [endJobRequest, run]

theorem endJobRequest_run_nonempty {s : State} (run : s.line.state = .run) (waiting : s.tracker.queue ≠ []) :
    endJobRequest () s = ({ s with line := { s.line with state := .drain } }, .bare .ok) := by
  rw [endJobRequest_run run, State.releaseLine_of_nonempty]
  exact waiting

theorem endJobRequest_run_empty {s : State} (run : s.line.state = .run) (empty : s.tracker.queue = []) :
    endJobRequest () s =
      ({ s with plan := s.plan.freeCurrent, line := { s.line with state := .idle } }, .bare .ok) := by
  rw [endJobRequest_run run, State.releaseLine_of_empty rfl]
  exact empty

theorem endJobRequest_halt {s : State} {ret : ReturnState} (halt : s.line.state = .halt ret) :
    endJobRequest () s = ({ s with line := { s.line with state := .halt .drain } }, .bare .ok) := by
  simp only [endJobRequest, halt]

theorem endJobRequest_drain {s : State} (drain : s.line.state = .drain) : endJobRequest () s = (s, .bare .ok) := by
  simp only [endJobRequest, drain]

/-- The command END JOB has the effect of its request, followed by the reply. -/
theorem exec_endJob {s : State} {f : Frame} {rest : List Frame} (taking : s.Taking .supervisor f rest)
    (kind : f.kind = kindEndJob) (payload : f.payload = []) :
    exec .endJob s = .next ((endJobRequest () s).1.reply .supervisor f rest (endJobRequest () s).2) :=
  takeSupervisor_noParameters taking kind payload (endJobRequest_withPorts ())

/-- Settles O31: the request's outcome in each line state, carried to the command by `exec_endJob`. -/
theorem endJobDrainsTheLine : Obligations.EndJobDrainsTheLine := by
  unfold Obligations.EndJobDrainsTheLine
  intro s f rest taking kind payload
  rw [exec_endJob taking kind payload]
  refine ⟨fun setup => ?_, fun run => ⟨fun waiting => ?_, fun empty => ?_⟩, fun ret halt => ?_, fun drain => ?_⟩
  · rw [endJobRequest_setup setup]
  · rw [endJobRequest_run_nonempty run waiting]
  · rw [endJobRequest_run_empty run empty]
    rfl
  · rw [endJobRequest_halt halt]
  · rw [endJobRequest_drain drain]

/-! Which slot is found STAGED: A before B. -/

theorem stagedSlot_eq_a {u : PlanUnit} (a : u.slotA.isStaged = true) : u.stagedSlot = some .a := by
  simp [PlanUnit.stagedSlot, PlanUnit.findSlot, a]

theorem stagedSlot_eq_b {u : PlanUnit} (a : u.slotA.isStaged = false) (b : u.slotB.isStaged = true) :
    u.stagedSlot = some .b := by
  simp [PlanUnit.stagedSlot, PlanUnit.findSlot, a, b]

theorem stagedSlot_eq_none {u : PlanUnit} (a : u.slotA.isStaged = false) (b : u.slotB.isStaged = false) :
    u.stagedSlot = none := by
  simp [PlanUnit.stagedSlot, PlanUnit.findSlot, a, b]

/-! What the plan unit makes of a DISCARD, with and without a STAGED slot (R82). -/

theorem discardRequest_staged {s : State} {i : SlotId} (staged : s.plan.stagedSlot = some i) :
    discardRequest () s = (s.setSlot i .free, ⟨.ok, be1 (slotIdByte i)⟩) := by
  simp only [discardRequest, staged]

theorem discardRequest_unstaged {s : State} (unstaged : s.plan.stagedSlot = none) :
    discardRequest () s = (s, .bare .state) := by
  simp only [discardRequest, unstaged]

/-- The command DISCARD has the effect of its request, followed by the reply. -/
theorem exec_discard {s : State} {f : Frame} {rest : List Frame} (taking : s.Taking .supervisor f rest)
    (kind : f.kind = kindDiscard) (payload : f.payload = []) :
    exec .discard s = .next ((discardRequest () s).1.reply .supervisor f rest (discardRequest () s).2) :=
  takeSupervisor_noParameters taking kind payload (discardRequest_withPorts ())

/-- Settles O29: the request's outcome for the slot that is found STAGED, carried to the command by `exec_discard`. -/
theorem discardFreesTheStagedSlot : Obligations.DiscardFreesTheStagedSlot := by
  unfold Obligations.DiscardFreesTheStagedSlot
  intro s f rest taking kind payload
  rw [exec_discard taking kind payload]
  refine ⟨fun a => ?_, fun a b => ?_, fun a b => ?_⟩
  · rw [discardRequest_staged (stagedSlot_eq_a a)]
    rfl
  · rw [discardRequest_staged (stagedSlot_eq_b a b)]
    rfl
  · rw [discardRequest_unstaged (stagedSlot_eq_none a b)]

end Sys2Proof.Machine
end

/-! ### The commanded outlet (R129) -/

section
namespace Sys2Proof.Machine

/-- The list of the fifteen names holds every name, so that what is tested along it is tested of every name (R20). -/
theorem mem_allChecks (c : Check) : c ∈ allChecks := by cases c <;> decide

theorem CheckWord.isEmpty_iff (w : CheckWord) : w.isEmpty = true ↔ ∀ c, w.has c = false := by
  simp [CheckWord.isEmpty, mem_allChecks]

/-- The two tests run along the list of names decide the two matches over all names. -/
theorem VerdictRule.matchesWord_iff (r : VerdictRule) (w : CheckWord) : r.matchesWord w = true ↔ RuleMatches r w := by
  obtain ⟨test, mask, outlet⟩ := r
  cases test with
  | any => simp [VerdictRule.matchesWord, RuleMatches, mem_allChecks]
  | all =>
    have named (c : Check) : (!mask.has c || w.has c) = true ↔ (mask.has c = true → w.has c = true) := by
      cases mask.has c <;> simp
    simp only [VerdictRule.matchesWord, RuleMatches, List.all_eq_true, mem_allChecks, forall_const, named]

/-! The outlet in its three cases: an empty word, a first rule that matches, no rule that matches. -/

theorem commandedOutlet_empty {rules : List VerdictRule} {w : CheckWord} (empty : w.isEmpty = true) :
    commandedOutlet rules w = .accept :=
  if_pos empty

theorem commandedOutlet_of_find {rules : List VerdictRule} {w : CheckWord} {r : VerdictRule}
    (marked : w.isEmpty = false) (found : rules.find? (·.matchesWord w) = some r) :
    commandedOutlet rules w = r.outlet := by
  simp [commandedOutlet, marked, found]

theorem commandedOutlet_of_find_none {rules : List VerdictRule} {w : CheckWord}
    (marked : w.isEmpty = false) (unfound : rules.find? (·.matchesWord w) = none) :
    commandedOutlet rules w = .reject := by
  simp [commandedOutlet, marked, unfound]

/-- The search answers the rule that matches after a part of the list in which none does. -/
theorem find_matchesWord_of_first {before after : List VerdictRule} {r : VerdictRule} {w : CheckWord}
    (earlier : ∀ q ∈ before, ¬RuleMatches q w) (hit : RuleMatches r w) :
    (before ++ r :: after).find? (·.matchesWord w) = some r :=
  List.find?_eq_some_iff_append.2 ⟨(r.matchesWord_iff w).2 hit, before, after, rfl, fun q mem => by
    simpa using mt (q.matchesWord_iff w).1 (earlier q mem)⟩

theorem find_matchesWord_eq_none {rules : List VerdictRule} {w : CheckWord} (miss : ∀ q ∈ rules, ¬RuleMatches q w) :
    rules.find? (·.matchesWord w) = none :=
  List.find?_eq_none.2 fun q mem => mt (q.matchesWord_iff w).1 (miss q mem)

/-- Settles O55: the three cases of the outlet, with the search's answer for the first match and for none. -/
theorem commandedOutletIsTheFirstMatch : Obligations.CommandedOutletIsTheFirstMatch := by
  unfold Obligations.CommandedOutletIsTheFirstMatch
  intro rules w
  refine ⟨fun empty => commandedOutlet_empty (w.isEmpty_iff.2 empty), fun ⟨c, held⟩ => ?_⟩
  have marked : w.isEmpty = false := by
    rw [Bool.eq_false_iff]
    intro empty
    rw [w.isEmpty_iff.1 empty c] at held
    cases held
  refine ⟨fun before r after split earlier hit => ?_, fun miss => ?_⟩
  · rw [split]
    exact commandedOutlet_of_find marked (find_matchesWord_of_first earlier hit)
  · exact commandedOutlet_of_find_none marked (find_matchesWord_eq_none miss)

end Sys2Proof.Machine
end

/-! ### STOP and RESUME (R146 to R149) -/

section
namespace Sys2Proof.Machine

/-! Where a handed cause takes the line, by the line state that it meets (R146, R147). -/

theorem State.handCause_run {s : State} (run : s.line.state = .run) (c : Cause) :
    s.handCause c =
      { s with line := { s.line with state := .halt .run, causes := s.line.causes.add c, lstop := true } } := by
  simp only [State.handCause, LineControl.handCause, run]

theorem State.handCause_drain {s : State} (drain : s.line.state = .drain) (c : Cause) :
    s.handCause c =
      { s with line := { s.line with state := .halt .drain, causes := s.line.causes.add c, lstop := true } } := by
  simp only [State.handCause, LineControl.handCause, drain]

theorem State.handCause_halt {s : State} {ret : ReturnState} (halt : s.line.state = .halt ret) (c : Cause) :
    s.handCause c = { s with line := { s.line with causes := s.line.causes.add c } } := by
  simp only [State.handCause, LineControl.handCause, halt]

/-! What line control makes of a STOP: refused before a job runs, handed over as OPERATOR from then on (R148). -/

theorem stopRequest_setup {s : State} (setup : s.line.state = .unconfigured ∨ s.line.state = .idle) :
    stopRequest () s = (s, .bare .state) := by
  obtain state | state := setup <;> simp only [stopRequest, state]

theorem stopRequest_taken {s : State} (busy : ¬(s.line.state = .unconfigured ∨ s.line.state = .idle)) :
    stopRequest () s = (s.handCause .operator, .bare .ok) := by
  cases state : s.line.state with
  | unconfigured => exact absurd (.inl state) busy
  | idle => exact absurd (.inr state) busy
  | run | drain | halt => simp only [stopRequest, state]

/-- The command STOP has the effect of its request, followed by the reply. -/
theorem exec_stop {s : State} {f : Frame} {rest : List Frame} (taking : s.Taking .supervisor f rest)
    (kind : f.kind = kindStop) (payload : f.payload = []) :
    exec .stop s = .next ((stopRequest () s).1.reply .supervisor f rest (stopRequest () s).2) :=
  takeSupervisor_noParameters taking kind payload (stopRequest_withPorts ())

/-- Settles O32: a STOP that is taken hands OPERATOR over, and the line state decides where that takes the line. -/
theorem stopHandsOverOperator : Obligations.StopHandsOverOperator := by
  unfold Obligations.StopHandsOverOperator
  intro s f rest taking kind payload
  rw [exec_stop taking kind payload]
  refine ⟨fun setup => ?_, fun run => ?_, fun drain => ?_, fun ret halt => ?_⟩
  · rw [stopRequest_setup setup]
  · rw [stopRequest_taken (by simp [run]), State.handCause_run run]
    rfl
  · rw [stopRequest_taken (by simp [drain]), State.handCause_drain drain]
    rfl
  · rw [stopRequest_taken (by simp [halt]), State.handCause_halt halt]
    rfl

theorem State.releaseLine_of_ne_drain {s : State} (other : s.line.state ≠ .drain) : s.releaseLine = s :=
  if_neg fun release => other release.1

/-! How the line leaves HALT: back to its return state, and from DRAIN with an empty queue on to IDLE (R88, R149). -/

theorem State.leaveHalt_run (s : State) :
    s.leaveHalt .run =
      { s with
        line := { s.line with state := .run, causes := {}, lstop := false }
        verdict := { s.verdict with rejectRun := 0 } } :=
  State.releaseLine_of_ne_drain nofun

theorem State.leaveHalt_drain_nonempty {s : State} (waiting : s.tracker.queue ≠ []) :
    s.leaveHalt .drain =
      { s with
        line := { s.line with state := .drain, causes := {}, lstop := false }
        verdict := { s.verdict with rejectRun := 0 } } :=
  State.releaseLine_of_nonempty waiting

theorem State.leaveHalt_drain_empty {s : State} (empty : s.tracker.queue = []) :
    s.leaveHalt .drain =
      { s with
        plan := s.plan.freeCurrent
        line := { s.line with state := .idle, causes := {}, lstop := false }
        verdict := { s.verdict with rejectRun := 0 } } :=
  State.releaseLine_of_empty rfl empty

/-! What line control makes of a RESUME, outside HALT and in it (R149). -/

theorem resumeRequest_outside {s : State} (outside : ∀ ret, s.line.state ≠ .halt ret) :
    resumeRequest () s = (s, .bare .state) := by
  cases state : s.line.state with
  | halt ret => exact absurd state (outside ret)
  | unconfigured | idle | run | drain => simp only [resumeRequest, state]

theorem resumeRequest_halt {s : State} {ret : ReturnState} (halt : s.line.state = .halt ret) :
    resumeRequest () s = (s.leaveHalt ret, ⟨.ok, be1 (lineStateByte (s.leaveHalt ret).line.state)⟩) := by
  simp only [resumeRequest, halt]

/-- The command RESUME has the effect of its request, followed by the reply. -/
theorem exec_resume {s : State} {f : Frame} {rest : List Frame} (taking : s.Taking .supervisor f rest)
    (kind : f.kind = kindResume) (payload : f.payload = []) :
    exec .resume s = .next ((resumeRequest () s).1.reply .supervisor f rest (resumeRequest () s).2) :=
  takeSupervisor_noParameters taking kind payload (resumeRequest_withPorts ())

/-- Settles O33: a RESUME that is taken leaves HALT, and return state and queue decide which line state is reached. -/
theorem resumeLeavesHalt : Obligations.ResumeLeavesHalt := by
  unfold Obligations.ResumeLeavesHalt
  intro s f rest taking kind payload
  rw [exec_resume taking kind payload]
  refine ⟨fun outside => ?_, fun halt => ?_, fun halt waiting => ?_, fun halt empty => ?_⟩
  · rw [resumeRequest_outside outside]
  · rw [resumeRequest_halt halt, State.leaveHalt_run]
    rfl
  · rw [resumeRequest_halt halt, State.leaveHalt_drain_nonempty waiting]
    rfl
  · rw [resumeRequest_halt halt, State.leaveHalt_drain_empty empty]
    rfl

end Sys2Proof.Machine
end

/-! ### What the blocks can do within a command -/

section
namespace Sys2Proof.Machine

/-! Settling, field by field: what counting, the reject-run count and the release of the line leave alone (R134, R135). -/

@[simp] theorem State.verdict_countOutlet (s : State) (i : SlotId) (o : Outlet) :
    (s.countOutlet i o).verdict = s.verdict := by
  unfold State.countOutlet
  simp only []
  split <;> rfl

@[simp] theorem State.verdict_releaseLine (s : State) : s.releaseLine.verdict = s.verdict := by
  unfold State.releaseLine
  split <;> rfl

/-- The counter that an outlet advances is that of the set's slot alone (R86). -/
@[simp] theorem State.plan_countOutlet (s : State) (i : SlotId) (o : Outlet) :
    (s.countOutlet i o).plan =
      s.plan.setSlot i ((s.plan.slot i).mapJob fun j => { j with counters := j.counters.count o }) := by
  unfold State.countOutlet
  simp only []
  split <;> rfl

@[simp] theorem State.plan_countRun (s : State) (o : Outlet) : (s.countRun o).plan = s.plan := by
  cases o <;> simp only [State.countRun] <;> (try split) <;> rfl

@[simp] theorem State.plan_settle (s : State) (w : Leaving) (x : SetRecord) :
    (s.settle w x).plan = (s.countOutlet x.slot (outletAtLeaving w x)).plan := by
  simp only [State.settle, State.plan_countRun]

/-- The reject-run count that an outlet leaves (R135). -/
def runAfter (limit run : Nat) : Outlet → Nat
  | .accept => 0
  | .reject | .rework =>
    if 0 < limit ∧ min (run + 1) Config.rejectRunMax = limit then 0 else min (run + 1) Config.rejectRunMax
  | .unresolved | .abandoned | .purged => run

@[simp] theorem State.verdict_countRun (s : State) (o : Outlet) :
    (s.countRun o).verdict =
      { s.verdict with rejectRun := runAfter s.tracker.lineConfig.rejectLimit s.verdict.rejectRun o } := by
  cases o with
  | accept | unresolved | abandoned | purged => rfl
  | reject | rework =>
    simp only [State.countRun, runAfter]
    split <;> rfl

/-- The verdict unit after a leaving: the entry appended, the reject-run count moved by the outlet (R135, R138). -/
theorem State.verdict_leave (s : State) (w : Leaving) (x : SetRecord) :
    (s.leave w x).verdict =
      { s.verdict.append (s.historyEntry x (outletAtLeaving w x)) with
        rejectRun := runAfter s.tracker.lineConfig.rejectLimit s.verdict.rejectRun (outletAtLeaving w x) } := by
  simp only [State.leave, State.verdict_releaseLine, State.verdict_releaseSlot, State.verdict_removeSet, State.settle,
    VerdictUnit.append, State.historyEntry, State.verdict_countRun, State.verdict_countOutlet, State.tracker_countOutlet,
    State.plan_countRun, State.plan_countOutlet, PlanUnit.slot_setSlot_self, PlanSlot.number?_mapJob]

/-- Line control after a settling: where a target is reached, job completion, and at the reject limit REJECT_RUN
(R91, R135). -/
theorem State.line_settle (s : State) (w : Leaving) (x : SetRecord) :
    (s.settle w x).line = (s.countOutlet x.slot (outletAtLeaving w x)).line ∨
      (s.settle w x).line = (s.countOutlet x.slot (outletAtLeaving w x)).line.handCause .rejectRun := by
  show ((s.countOutlet x.slot (outletAtLeaving w x)).countRun (outletAtLeaving w x)).line = _ ∨
    ((s.countOutlet x.slot (outletAtLeaving w x)).countRun (outletAtLeaving w x)).line = _
  generalize s.countOutlet x.slot (outletAtLeaving w x) = t
  cases outletAtLeaving w x with
  | accept | unresolved | abandoned | purged => exact .inl rfl
  | reject | rework =>
    simp only [State.countRun]
    split
    · exact .inr rfl
    · exact .inl rfl

theorem State.line_countOutlet (s : State) (i : SlotId) (o : Outlet) :
    (s.countOutlet i o).line = s.line ∨ (s.countOutlet i o).line = { s.line with jobDone := true } ∨
      (s.countOutlet i o).line = ({ s.line with jobDone := true } : LineControl).jobComplete := by
  unfold State.countOutlet
  simp only []
  split
  · simp only [State.raiseJobDone]
    split
    · exact .inr (.inr rfl)
    · exact .inr (.inl rfl)
  · exact .inl rfl

/-- A property of line control that latches do not touch, and that job completion and causes keep, is kept by a
settling. -/
theorem State.settle_keeps_line {P : LineControl → Prop} (latch : ∀ l, P l → P { l with jobDone := true })
    (complete : ∀ l : LineControl, P l → P l.jobComplete) (cause : ∀ (l : LineControl) c, P l → P (l.handCause c))
    {s : State} (w : Leaving) (x : SetRecord) (h : P s.line) : P (s.settle w x).line := by
  have counted : P (s.countOutlet x.slot (outletAtLeaving w x)).line := by
    obtain e | e | e := State.line_countOutlet s x.slot (outletAtLeaving w x) <;> rw [e]
    · exact h
    · exact latch _ h
    · exact complete _ (latch _ h)
  obtain e | e := State.line_settle s w x <;> rw [e]
  · exact counted
  · exact cause _ _ counted

/-- Such a property is kept by a leaving if the way from DRAIN to IDLE keeps it as well. -/
theorem State.leave_keeps_line {P : LineControl → Prop} (latch : ∀ l, P l → P { l with jobDone := true })
    (complete : ∀ l : LineControl, P l → P l.jobComplete) (cause : ∀ (l : LineControl) c, P l → P (l.handCause c))
    (idle : ∀ l : LineControl, l.state = .drain → P l → P { l with state := .idle }) {s : State} (w : Leaving)
    (x : SetRecord) (h : P s.line) : P (s.leave w x).line := by
  have settled := State.settle_keeps_line latch complete cause w x h
  unfold State.leave State.releaseLine
  split
  next release => exact idle _ release.1 settled
  next => exact settled

/-! ### The moves -/

/-- A record that is changed in its place keeps its number and its slot, and does not come to gather (R16, R18). -/
structure SetRecord.Keeps (x y : SetRecord) : Prop where
  number : y.number = x.number
  slot : y.slot = x.slot
  gathering : y.isGathering = true → x.isGathering = true

/-- One change that the blocks make within a command: everything that a command does to the blocks is a run of these
(95_what_each_step_holds.md). What a change needs to keep a law stands as its hypothesis. -/
inductive Move (s : State) : State → Prop
  | position (p : PositionCounter)
      (tally : s.position.tally < s.tracker.lineConfig.divider → p.tally < s.tracker.lineConfig.divider) :
      Move s { s with position := p }
  | latches (jobDone storeEnd : Bool) : Move s { s with line := { s.line with jobDone, storeEnd } }
  | store (r : RecipeStore) : Move s { s with store := r }
  | verdict (rules : List VerdictRule) (readPointer : Counter) :
      Move s { s with verdict := { s.verdict with rules, readPointer } }
  | cause (c : Cause) : Move s (s.handCause c)
  | record (n : Nat) (f : SetRecord → SetRecord)
      (keeps : (s.tracker.queue.map (·.number)).Nodup → ∀ x ∈ s.tracker.queue, x.number = n → x.Keeps (f x)) :
      Move s (s.updateSet n f)
  | misses (p : StationPort) (n : Nat) (few : n < Config.missRun) :
      Move s { s with tracker := { s.tracker with missCounts := s.tracker.missCounts.set p n } }
  | leave (w : Leaving) (x : SetRecord) (here : x ∈ s.tracker.queue) : Move s (s.leave w x)
  | purge : Move s (s.tracker.queue.foldl (fun t x => t.leave .purge x) s)
  | opening (i : SlotId) (run : s.line.state = .run) (room : s.tracker.queue.length < Config.queueDepth)
      (closed : s.gatheringSet = none) (current : s.plan.currentSlot = some i)
      (quota : ((s.plan.slot i).job?.map Job.quotaAllows).getD false = true) : Move s (s.openUnder i)
  | stage (i : SlotId) (r : Recipe) (plan : HolePlan) (source : Source) (target : s.plan.targetSlot = some i)
      (fits : r.target ≤ 999999) : Move s (s.setSlot i (.staged (stagedJob r plan source)))
  | discard (i : SlotId) (staged : (s.plan.slot i).isStaged = true) : Move s (s.setSlot i .free)
  | die (d : Die) (fits : d.Fits) : Move s { s with plan := { s.plan with die := some d } }
  | changeover (i : SlotId) (configured : s.line.state ≠ .unconfigured) (staged : s.plan.stagedSlot = some i) :
      Move s { s with plan := s.plan.changeover, line := s.line.changeover }
  | complete : Move s { s with line := s.line.jobComplete }
  | release : Move s s.releaseLine
  | resume (ret : ReturnState) (halt : s.line.state = .halt ret) :
      Move s { s with
        line := { s.line with state := lineStateOfReturn ret, causes := {}, lstop := false }
        verdict := { s.verdict with rejectRun := 0 } }
  | configure (c : LineConfig) (setup : s.line.state.isSetup = true) (fits : lineConfigFailure c = none) :
      Move s (s.writeLine c).revalidate.1
  | station (p : StationPort) (e : Station) (setup : s.line.state.isSetup = true) :
      Move s (s.writeStation p e).revalidate.1
  | flags (p : Port) (f : PortState → PortState) (buffer : ∀ q, (f q).buffer = q.buffer)
      (answers : ∀ q, (f q).answers = q.answers) : Move s (s.updatePort p f)

/-- A run of moves. -/
inductive Moves : State → State → Prop
  | refl (s : State) : Moves s s
  | tail {s t u : State} (run : Moves s t) (m : Move t u) : Moves s u

theorem Move.run {s t : State} (m : Move s t) : Moves s t := .tail (.refl s) m

theorem Moves.trans {s t u : State} (first : Moves s t) (second : Moves t u) : Moves s u := by
  induction second with
  | refl => exact first
  | tail _ m ih => exact .tail ih m

theorem Moves.of_eq {s t : State} (same : t = s) : Moves s t := same ▸ .refl t

theorem Moves.keep {Inv : State → Prop} (keep : ∀ {s t : State}, Move s t → Inv s → Inv t) {s t : State}
    (m : Moves s t) (h : Inv s) : Inv t := by
  induction m with
  | refl => exact h
  | tail _ m ih => exact keep m ih

theorem Moves.foldl {α : Type} {f : State → α → State} (each : ∀ s a, Moves s (f s a)) (l : List α) :
    ∀ s, Moves s (l.foldl f s) := by
  induction l with
  | nil => exact Moves.refl
  | cons a l ih => exact fun s => (each s a).trans (ih _)

theorem Moves.ite {s t u : State} {c : Prop} [Decidable c] (ht : Moves s t) (hu : Moves s u) :
    Moves s (if c then t else u) := by
  by_cases h : c
  · rwa [if_pos h]
  · rwa [if_neg h]

/-- A change of a record that keeps what the laws read of it, for whichever record it is. -/
theorem Move.record_of_keeps {s : State} (n : Nat) {f : SetRecord → SetRecord} (keeps : ∀ x : SetRecord, x.Keeps (f x)) :
    Move s (s.updateSet n f) :=
  .record n f fun _ x _ _ => keeps x

theorem State.mem_of_findSet {s : State} {n : Nat} {x : SetRecord} (found : s.findSet n = some x) :
    x ∈ s.tracker.queue ∧ x.number = n :=
  ⟨List.mem_of_find?_eq_some found, by simpa using List.find?_some found⟩

/-- Where numbers are distinct, the record of a number is the one that is in the queue (R16). -/
theorem eq_of_number_eq {q : List SetRecord} (nodup : (q.map (·.number)).Nodup) {x y : SetRecord} (hx : x ∈ q)
    (hy : y ∈ q) (h : x.number = y.number) : x = y := by
  induction q with
  | nil => exact absurd hx List.not_mem_nil
  | cons z q ih =>
    rw [List.map_cons, List.nodup_cons] at nodup
    obtain ⟨apart, nodup⟩ := nodup
    obtain rfl | inX := List.mem_cons.1 hx <;> obtain rfl | inY := List.mem_cons.1 hy
    · rfl
    · exact absurd (h ▸ List.mem_map_of_mem inY) apart
    · exact absurd (h ▸ List.mem_map_of_mem inX) apart
    · exact ih nodup inX inY

/-- A record that is replaced by a change of itself. -/
theorem Move.record_of_mem {s : State} {x y : SetRecord} (here : x ∈ s.tracker.queue) (keeps : x.Keeps y) :
    Move s (s.updateSet x.number fun _ => y) :=
  .record x.number _ fun nodup _ hz hn => eq_of_number_eq nodup hz here hn ▸ keeps

/-! The records that the commands write keep number and slot. -/

theorem SetRecord.Keeps.refl (x : SetRecord) : x.Keeps x := ⟨rfl, rfl, id⟩

theorem SetRecord.keeps_setProgress (x : SetRecord) (r : StationRole) (q : Progress) : x.Keeps (x.setProgress r q) :=
  ⟨rfl, rfl, id⟩

theorem SetRecord.keeps_setProgress_addCheck (x : SetRecord) (r : StationRole) (q : Progress) (c : Check) :
    x.Keeps ((x.setProgress r q).addCheck c) :=
  ⟨rfl, rfl, id⟩

theorem SetRecord.keeps_closeAt (x : SetRecord) (r : Recipe) (e : Position) (crowded : Bool) :
    x.Keeps (x.closeAt r e crowded) :=
  ⟨rfl, rfl, nofun⟩

theorem SetRecord.keeps_countLift (x : SetRecord) : x.Keeps x.countLift := by
  unfold SetRecord.countLift
  simp only []
  split <;> exact ⟨rfl, rfl, id⟩

theorem State.keeps_workFor (s : State) (r : StationRole) (x : SetRecord) : x.Keeps (s.workFor r x).1 := by
  cases r with
  | punch =>
    simp only [State.workFor, punchMatch]
    split <;> exact x.keeps_setProgress _ _
  | binder =>
    simp only [State.workFor, binderMatch]
    split
    · exact x.keeps_setProgress _ _
    · exact x.keeps_setProgress_addCheck _ _ _
  | notch | drill | gate => exact ⟨rfl, rfl, id⟩

/-! The operations that the commands share, as runs of moves. -/

theorem State.moves_raiseMiss (s : State) (p : StationPort) : Moves s (s.raiseMiss p) := by
  unfold State.raiseMiss
  simp only []
  split
  next few => exact (Move.misses p _ few).run
  next => exact (Move.misses p 0 (by decide)).run.tail (.cause .missRun)

theorem State.moves_missCrossing (s : State) (p : StationPort) (r : StationRole) (n : Nat) :
    Moves s (s.missCrossing p r n) := by
  have missed : Moves s ((s.updateSet n fun x => (x.setProgress r .missed).addCheck .missed).raiseMiss p) :=
    (Move.record_of_keeps n fun x : SetRecord => x.keeps_setProgress_addCheck r .missed .missed).run.trans
      (State.moves_raiseMiss _ p)
  exact .ite (.ite (missed.tail (.cause .gateMissed)) missed) (.refl s)

theorem State.moves_closeCrossing (s : State) (r : StationRole) (n : Nat) : Moves s (s.closeCrossing r n) := by
  have closed : Moves s (s.updateSet n fun x => (x.setProgress r .unconfirmed).addCheck .unconfirmed) :=
    (Move.record_of_keeps n fun x => x.keeps_setProgress_addCheck r .unconfirmed .unconfirmed).run
  exact .ite (.ite (closed.tail (.cause .gateUnconfirmed)) closed) (.refl s)

theorem State.moves_stationCrossings (s : State) (n old new : Nat) (p : StationPort) :
    Moves s (s.stationCrossings n old new p) := by
  unfold State.stationCrossings
  split
  next => exact .refl s
  next r _ =>
    have missed := Moves.ite (c := crossed old new ((s.station p).arrive + (s.station p).tol) = true)
      (s.moves_missCrossing p r n) (.refl s)
    exact .ite (missed.trans (State.moves_closeCrossing _ r n)) missed

theorem State.moves_leaveNumber (s : State) (w : Leaving) (n : Nat) : Moves s (s.leaveNumber w n) := by
  unfold State.leaveNumber
  cases found : s.findSet n with
  | none => exact .refl s
  | some x => exact (Move.leave w x (State.mem_of_findSet found).1).run

theorem State.moves_crossSet (s : State) (n old new : Nat) : Moves s (s.crossSet n old new) := by
  have stations := Moves.foldl (fun t p => State.moves_stationCrossings t n old new p) stationPorts s
  exact .ite (stations.trans (State.moves_leaveNumber _ .exit n)) stations

theorem State.moves_offerCrossings (s : State) (before after : Position) : Moves s (s.offerCrossings before after) := by
  refine Moves.foldl (fun t n => ?_) _ s
  unfold State.crossAtStep
  split
  · exact .refl t
  · exact t.moves_crossSet n _ _

/-! The encoder (R1 to R6). -/

theorem State.moves_forwardCount (s : State) : Moves s s.forwardCount := by
  unfold State.forwardCount
  simp only []
  split
  · exact (Move.position _ (by exact id)).run.trans (State.moves_offerCrossings _ _ _)
  · exact (Move.position _ (by exact id)).run

theorem State.moves_reverseCount (s : State) : Moves s s.reverseCount := by
  unfold State.reverseCount
  simp only []
  split
  · exact (Move.position { s.position with raw := s.position.raw - 1, armed := false } id).run.tail (.cause .reverse)
  · exact (Move.position { s.position with raw := s.position.raw - 1 } id).run

theorem State.moves_dividerEdge (s : State) (dir : Direction) : Moves s (s.dividerEdge dir) := by
  unfold State.dividerEdge
  simp only []
  generalize (if s.position.tallyDirection = some dir then s.position.tally else 0) = kept
  split
  next full =>
    have counted : Moves s { s with position := { s.position with tally := 0, tallyDirection := some dir } } :=
      (Move.position _ fun below => Nat.zero_lt_of_lt below).run
    cases dir with
    | forward => exact counted.trans (State.moves_forwardCount _)
    | reverse => exact counted.trans (State.moves_reverseCount _)
  next below => exact (Move.position _ fun _ => Nat.lt_of_not_le below).run

theorem State.moves_newPair (s : State) (pair : PhasePair) : Moves s (s.newPair pair) := by
  have seen : Moves s { s with position := { s.position with reference := pair } } :=
    (Move.position _ (by exact id)).run
  exact .ite (.refl s) (.ite (seen.trans (State.moves_dividerEdge _ _)) (.ite (seen.trans (State.moves_dividerEdge _ _))
    (Move.position _ (by exact id)).run))

end Sys2Proof.Machine
end

section
namespace Sys2Proof.Machine

/-! The blocks of line setup (R54, R94, R95, R128). -/

theorem moves_setLineRequest (c : LineConfig) (s : State) : Moves s (setLineRequest c s).1 := by
  unfold setLineRequest
  split
  · exact .refl s
  next setup =>
    split
    · exact .refl s
    next fits => exact (Move.configure c (by simpa using setup) fits).run

/-- A STAGED slot that is freed, whether or not it is STAGED, is a discard or no change. -/
theorem State.moves_freeIfStaged (s : State) (i : SlotId) : Moves s (s.setSlot i (s.plan.slot i).freeIfStaged) := by
  unfold PlanSlot.freeIfStaged
  split
  next staged => exact (Move.discard i staged).run
  next => cases i <;> exact .refl s

theorem State.moves_discardStaged (s : State) : Moves s { s with plan := s.plan.discardStaged } :=
  (s.moves_freeIfStaged .a).trans ((s.setSlot .a s.plan.slotA.freeIfStaged).moves_freeIfStaged .b)

/-- The STAGED plan is examined against the new table, which is the same whether before or after the line is validated
(R55, R97). -/
theorem State.moves_writeStation (s : State) (p : StationPort) (e : Station) (setup : s.line.state.isSetup = true) :
    Moves s ((s.writeStation p e).examineStaged).revalidate.1 := by
  unfold State.examineStaged
  split
  · exact s.moves_discardStaged.tail (.station (s := { s with plan := s.plan.discardStaged }) p e setup)
  · exact (Move.station p e setup).run

theorem moves_setStationRequest (c : StationParams) (s : State) : Moves s (setStationRequest c s).1 := by
  unfold setStationRequest
  split
  · exact .refl s
  next setup =>
    split
    · exact .refl s
    · split
      · exact .refl s
      · unfold setStationChecked
        split
        · exact .refl s
        · exact s.moves_writeStation _ _ (by simpa using setup)

theorem dieFits_of_dieFailure {d : Die} (passes : dieFailure d = none) : d.Fits := by
  have all := (firstFailure_eq_none_iff _).1 passes
  simpa [inRange_iff, Die.Fits] using all

theorem moves_setDieRequest (d : Die) (s : State) : Moves s (setDieRequest d s).1 := by
  unfold setDieRequest
  split
  · exact .refl s
  · split
    · exact .refl s
    next fits =>
      exact s.moves_discardStaged.tail
        (.die (s := { s with plan := s.plan.discardStaged }) d (dieFits_of_dieFailure fits))

theorem moves_setRulesRequest (c : Nat × List RuleParams) (s : State) : Moves s (setRulesRequest c s).1 := by
  unfold setRulesRequest
  split
  · exact .refl s
  · split
    · exact .refl s
    next rules _ => exact (Move.verdict rules s.verdict.readPointer).run

/-! The recipe store (chapter 10). -/

theorem moves_storeRequest (c : Nat × Recipe) (s : State) : Moves s (storeRequest c s).1 := by
  unfold storeRequest
  split
  · exact .refl s
  · split
    · exact .refl s
    · split
      · exact .refl s
      · exact (Move.store _).run

theorem moves_eraseRequest (n : Nat) (s : State) : Moves s (eraseRequest n s).1 := by
  unfold eraseRequest
  split
  · exact .refl s
  · split
    · exact .refl s
    · exact (Move.store _).run

theorem readRecipeRequest_state (n : Nat) (s : State) : (readRecipeRequest n s).1 = s := by
  unfold readRecipeRequest
  split
  · rfl
  · split
    · rfl
    · split <;> rfl

/-! Jobs in the plan slots (chapter 5). -/

theorem computePlan_target {r : Recipe} {die : Option Die} {table : PerStation Station} {plan : HolePlan}
    (computed : computePlan r die table = .ok plan) : r.target ≤ 999999 := by
  have passes : rangeFailure r = none := by
    unfold computePlan at computed
    cases range : rangeFailure r with
    | none => rfl
    | some e => simp only [range, reduceCtorEq] at computed
  have all := (firstFailure_eq_none_iff (recipeChecks r)).1 passes
  have target := all (inRange 0 999999 r.target, ⟨12, 0⟩) (by simp [recipeChecks])
  simpa [inRange] using target

theorem State.moves_stageInto {s : State} {i : SlotId} (target : s.plan.targetSlot = some i) (r : Recipe)
    (source : Source) : Moves s (s.stageInto i r source).1 := by
  unfold State.stageInto
  split
  · exact .refl s
  next plan computed => exact (Move.stage i r plan source target (computePlan_target computed)).run

theorem moves_stageRequest (n : Nat) (s : State) : Moves s (stageRequest n s).1 := by
  unfold stageRequest
  split
  · exact .refl s
  · split
    · exact .refl s
    · unfold stageStoreSlot
      split
      · exact .refl s
      next target =>
        split
        · exact .refl s
        · split
          · exact .refl s
          · exact .refl s
          · exact State.moves_stageInto target _ _

theorem moves_stageInlineRequest (r : Recipe) (s : State) : Moves s (stageInlineRequest r s).1 := by
  unfold stageInlineRequest
  split
  · exact .refl s
  · split
    · exact .refl s
    next target => exact State.moves_stageInto target _ _

theorem findSlot_eq_some {u : PlanUnit} {test : PlanSlot → Bool} {i : SlotId} (found : u.findSlot test = some i) :
    test (u.slot i) = true := by
  unfold PlanUnit.findSlot at found
  split at found
  next a =>
    cases found
    exact a
  next =>
    split at found
    next b =>
      cases found
      exact b
    next => cases found

theorem moves_discardRequest (u : Unit) (s : State) : Moves s (discardRequest u s).1 := by
  unfold discardRequest
  split
  · exact .refl s
  next staged => exact (Move.discard _ (findSlot_eq_some staged)).run

theorem moves_changeoverRequest (u : Unit) (s : State) : Moves s (changeoverRequest u s).1 := by
  unfold changeoverRequest
  split
  · exact .refl s
  next configured =>
    split
    · exact .refl s
    next staged => exact (Move.changeover _ configured staged).run

/-- END JOB takes line control where a job's completion would (R90, R91). -/
theorem moves_endJobRequest (u : Unit) (s : State) : Moves s (endJobRequest u s).1 := by
  have drained := Move.complete (s := s)
  cases state : s.line.state with
  | unconfigured | idle | drain =>
    simp only [endJobRequest, state]
    exact .refl s
  | run =>
    simp only [LineControl.jobComplete, state] at drained
    rw [endJobRequest_run state]
    exact drained.run.tail .release
  | halt =>
    simp only [LineControl.jobComplete, state] at drained
    rw [endJobRequest_halt state]
    exact drained.run

/-! The line (chapter 9). -/

theorem moves_stopRequest (u : Unit) (s : State) : Moves s (stopRequest u s).1 := by
  by_cases setup : s.line.state = .unconfigured ∨ s.line.state = .idle
  · rw [stopRequest_setup setup]
    exact .refl s
  · rw [stopRequest_taken setup]
    exact (Move.cause .operator).run

theorem moves_resumeRequest (u : Unit) (s : State) : Moves s (resumeRequest u s).1 := by
  cases state : s.line.state with
  | halt ret =>
    rw [resumeRequest_halt state]
    exact (Move.resume ret state).run.tail .release
  | unconfigured | idle | run | drain =>
    rw [resumeRequest_outside (by simp [state])]
    exact .refl s

theorem moves_purgeRequest (u : Unit) (s : State) : Moves s (purgeRequest u s).1 := by
  unfold purgeRequest
  split
  · exact Move.purge.run
  · exact .refl s

/-! What the supervisor reads and marks. -/

theorem SetRecord.keeps_addCheck (x : SetRecord) (c : Check) : x.Keeps (x.addCheck c) := ⟨rfl, rfl, id⟩

theorem moves_markSampleRequest (n : Nat) (s : State) : Moves s (markSampleRequest n s).1 := by
  unfold markSampleRequest
  split
  · exact .refl s
  · split
    · exact (Move.record_of_keeps n fun y => y.keeps_addCheck .sample).run
    · exact .refl s

theorem moves_readStatusRequest (u : Unit) (s : State) : Moves s (readStatusRequest u s).1 :=
  (Move.latches false false).run.tail
    (.position (s := { s with line := { s.line with jobDone := false, storeEnd := false } }) _ (by exact id))

theorem readSetRequest_state (n : Nat) (s : State) : (readSetRequest n s).1 = s := by
  unfold readSetRequest
  split <;> rfl

theorem readPlanRequest_state (n : Nat) (s : State) : (readPlanRequest n s).1 = s := by
  unfold readPlanRequest
  split
  · rfl
  · split <;> rfl

theorem moves_readHistoryRequest (u : Unit) (s : State) : Moves s (readHistoryRequest u s).1 := by
  unfold readHistoryRequest
  simp only []
  split
  · exact .refl s
  · split
    · split
      · exact .refl s
      · exact (Move.verdict s.verdict.rules _).run
    · split
      · exact .refl s
      · exact (Move.verdict s.verdict.rules _).run

theorem moves_rewindRequest (u : Unit) (s : State) : Moves s (rewindRequest u s).1 :=
  (Move.verdict s.verdict.rules _).run

theorem moves_readPortStatusRequest (n : Nat) (s : State) : Moves s (readPortStatusRequest n s).1 := by
  unfold readPortStatusRequest
  split
  · exact .refl s
  next p _ => exact (Move.flags p PortState.clearFlags (fun _ => rfl) fun _ => rfl).run

/-! The collator's requests (chapter 2). -/

theorem moves_openRequest (u : Unit) (c : Position) (s : State) : Moves s (openRequest u c s).1 := by
  unfold openRequest
  split
  · exact .refl s
  next run =>
    split
    · exact .refl s
    next room =>
      split
      · exact .refl s
      next closed =>
        split
        · exact .refl s
        next current =>
          split
          next quota =>
            exact (Move.opening _ (Classical.not_not.1 run) (Nat.lt_of_not_le room) (by simpa using closed) current quota).run
          next => exact .refl s

theorem SetRecord.keeps_recordSheet (x : SetRecord) (r : Recipe) (index caliper : Nat) :
    x.Keeps (x.recordSheet r index caliper) := ⟨rfl, rfl, id⟩

theorem moves_sheetRequest (c : SheetParams) (q : Position) (s : State) : Moves s (sheetRequest c q s).1 := by
  unfold sheetRequest
  split
  · exact .refl s
  · split
    · exact .refl s
    · split
      · exact .refl s
      · unfold takeSheet
        simp only []
        split
        · exact .refl s
        · split
          · exact (Move.record_of_keeps c.set fun x => x.keeps_addCheck .long).run
          · exact (Move.record_of_keeps c.set fun x => x.keeps_recordSheet _ _ _).run

theorem moves_closeRequest (n : Nat) (c : Position) (s : State) : Moves s (closeRequest n c s).1 := by
  unfold closeRequest
  split
  · exact .refl s
  next x found =>
    split
    · exact .refl s
    · split
      · exact .refl s
      · exact (Move.record_of_mem (State.mem_of_findSet found).1 (x.keeps_closeAt _ _ _)).run.trans
          (State.moves_crossSet _ _ _ _)

theorem moves_abandonRequest (n : Nat) (c : Position) (s : State) : Moves s (abandonRequest n c s).1 := by
  unfold abandonRequest
  split
  · exact .refl s
  next found =>
    split
    · exact .refl s
    · exact (Move.leave .abandon _ (State.mem_of_findSet found).1).run

/-! The stations' requests (chapters 6 to 8). -/

theorem State.moves_clearMiss (s : State) (p : StationPort) : Moves s (s.clearMiss p) := (Move.misses p 0 (by decide)).run

theorem chosenSet_mem {queue : List SetRecord} {e : Station} {r : StationRole} {p : Position} {x : SetRecord}
    (chosen : chosenSet queue e r p = some x) : x ∈ queue := by
  have walk : ∀ (l : List SetRecord) (best : Option (SetRecord × Nat)) (y : SetRecord × Nat),
      l.foldl (nearerCandidate e r p) best = some y → y.1 ∈ l ∨ best = some y := by
    intro l
    induction l with
    | nil => exact fun best y h => .inr h
    | cons z l ih =>
      intro best y h
      obtain later | now := ih _ y h
      · exact .inl (List.mem_cons_of_mem z later)
      · unfold nearerCandidate at now
        split at now
        · exact .inr now
        · split at now
          · cases now
            exact .inl List.mem_cons_self
          · split at now
            · cases now
              exact .inl List.mem_cons_self
            · exact .inr now
  unfold chosenSet at chosen
  obtain ⟨y, found, rfl⟩ := Option.map_eq_some_iff.1 chosen
  exact (walk queue none y found).resolve_right nofun

theorem moves_edgeRequest (p : StationPort) (lag : Nat) (c : Position) (s : State) :
    Moves s (edgeRequest p lag c s).1 := by
  unfold edgeRequest
  split
  · exact .refl s
  next r _ =>
    split
    · exact (Move.flags (.station p) (fun q => { q with unmatchedEdge := true }) (fun _ => rfl) fun _ => rfl).run
    next x chosen =>
      unfold State.matchEdge
      split
      · exact (s.moves_clearMiss p).tail (Move.record_of_keeps x.number fun y => y.keeps_setProgress r .passed)
      · exact (s.moves_clearMiss p).tail
          (Move.record_of_mem (s := s.clearMiss p) (chosenSet_mem chosen) (s.keeps_workFor r x))

/-- A report that is refused changes nothing. -/
theorem State.moves_testReport (s : State) (p : StationPort) (valid : StationRole → Bool) (n : Nat)
    {act : SetRecord → StationRole → Reply} (moves : ∀ x r, Moves s (act x r).1) :
    Moves s (s.testReport p valid n act).1 := by
  unfold State.testReport
  split
  · exact .refl s
  · split
    · exact .refl s
    · split
      · exact .refl s
      · split
        case h_11 => exact moves _ _
        all_goals exact .refl s

theorem moves_liftRequest (p : StationPort) (c : Nat × Nat) (q : Position) (s : State) :
    Moves s (liftRequest p c q s).1 := by
  refine s.moves_testReport p _ c.1 fun x _ => ?_
  split
  · exact (Move.record_of_keeps c.1 SetRecord.keeps_countLift).run
  · exact .refl s

theorem moves_doneRequest (p : StationPort) (n : Nat) (q : Position) (s : State) : Moves s (doneRequest p n q s).1 :=
  s.moves_testReport p _ n fun _ r => (Move.record_of_keeps n fun y => y.keeps_setProgress r (.done none)).run

theorem moves_faultRequest (p : StationPort) (c : Nat × Nat) (q : Position) (s : State) :
    Moves s (faultRequest p c q s).1 := by
  unfold faultRequest
  split
  · exact .refl s
  · exact s.moves_testReport p _ c.1 fun _ r => (Move.record_of_keeps c.1 fun y => y.keeps_setProgress_addCheck r _ _).run

theorem SetRecord.keeps_divert (x : SetRecord) (o : GateOutlet) : x.Keeps (x.divert o) := ⟨rfl, rfl, id⟩

theorem State.moves_divertSet (s : State) (n : Nat) (x : SetRecord) (o : GateOutlet) : Moves s (s.divertSet n x o) := by
  have taken : Moves s (s.updateSet n fun y => y.divert o) := (Move.record_of_keeps n fun y => y.keeps_divert o).run
  exact .ite taken (taken.tail (.cause .gateMismatch))

theorem moves_divertedRequest (p : StationPort) (c : Nat × Nat) (q : Position) (s : State) :
    Moves s (divertedRequest p c q s).1 := by
  unfold divertedRequest
  split
  · exact .refl s
  · exact s.moves_testReport p _ c.1 fun x _ => s.moves_divertSet c.1 x _

end Sys2Proof.Machine
end

section
namespace Sys2Proof.Machine

/-! What a command can do, said once. -/

/-- A change of one port that keeps buffer and answer queue within their depths (R165, R166). -/
structure PortState.Bounded (q r : PortState) : Prop where
  buffer : q.buffer.length ≤ Config.bufferDepth → r.buffer.length ≤ Config.bufferDepth
  answers : q.answers.length ≤ Config.answerDepth → r.answers.length ≤ Config.answerDepth

/-- How a command ends: it changes nothing, resets the part, changes a port, moves the blocks, or takes a frame, lets the
blocks move and answers. ATTN is driven wherever it could have changed (R152). -/
inductive Ends (s : State) : State → Prop
  | idle : Ends s s
  | reset (pair : PhasePair) : Ends s (State.afterReset pair s.store.interrupted s.pending)
  | port (p : Port) (f : PortState → PortState) (bounded : ∀ q : PortState, q.Bounded (f q)) :
      Ends s (s.updatePort p f).driveAttn
  | blocks {t : State} (moves : Moves s t) : Ends s t.driveAttn
  | request {p : Port} {f : Frame} {rest : List Frame} {t : State} (taking : s.Taking p f rest)
      (moves : Moves (s.withoutFrame p rest) t) (answer : List Byte) : Ends s (t.pushAnswer p answer).driveAttn

theorem takeFrame_ends {p : Port} {wanted : Byte → Bool} {act : Frame → State → Reply}
    (moves : ∀ f s, Moves s (act f s).1) (s : State) : ∃ t, takeFrame p wanted act s = .next t ∧ Ends s t := by
  obtain e | ⟨f, rest, taking, -, e⟩ := takeFrame_cases p wanted act s
  · exact ⟨s, e, .idle⟩
  · exact ⟨_, e, .request taking (moves f _) _⟩

theorem takeRequest_ends {α : Type} {p : Port} {kind : Byte} {parse : List Byte → Option α}
    {act : α → Position → State → Reply} (moves : ∀ a c s, Moves s (act a c s).1) (s : State) :
    ∃ t, takeRequest p kind parse act s = .next t ∧ Ends s t := by
  refine takeFrame_ends (fun f t => ?_) s
  cases parse f.payload with
  | none => exact .refl t
  | some a => exact moves a f.capture t

theorem takeSupervisor_ends {α : Type} {kind : Byte} {parse : List Byte → Option α} {act : α → State → Reply}
    (moves : ∀ a s, Moves s (act a s).1) (s : State) : ∃ t, takeSupervisor kind parse act s = .next t ∧ Ends s t :=
  takeRequest_ends (fun a _ t => moves a t) s

theorem takeCollator_ends {α : Type} {p : StationPort} {kind : Byte} {parse : List Byte → Option α}
    {act : α → Position → State → Reply} (moves : ∀ a c s, Moves s (act a c s).1) (s : State) :
    ∃ t, takeCollator p kind parse act s = .next t ∧ Ends s t := by
  refine takeRequest_ends (fun a c t => ?_) s
  by_cases role : (t.station p).role = .collator
  · rw [if_pos role]
    exact moves a c t
  · rw [if_neg role]
    exact .refl t

/-! The serial side keeps buffers and answer queues within their depths. -/

theorem PortState.bounded_discardFrame (q : PortState) : q.Bounded q.discardFrame := ⟨id, id⟩

theorem PortState.bounded_completeFrame (q : PortState) (f : Frame) : q.Bounded (q.completeFrame f) := by
  unfold PortState.completeFrame
  split
  next room => exact ⟨fun _ => Nat.le_trans (Nat.le_of_eq List.length_append) room, id⟩
  next => exact ⟨id, id⟩

theorem PortState.bounded_receiveByte (q : PortState) (t : Position) (b : Byte) : q.Bounded (q.receiveByte t b) := by
  unfold PortState.receiveByte
  split
  · split <;> exact ⟨id, id⟩
  · split
    · exact ⟨id, id⟩
    · exact q.bounded_discardFrame
  · split <;> exact ⟨id, id⟩
  · split
    · exact q.bounded_completeFrame _
    · exact q.bounded_discardFrame

theorem PortState.bounded_receive (q : PortState) (t : Position) (c : Character) : q.Bounded (q.receive t c) := by
  cases c with
  | byte b => exact q.bounded_receiveByte t b
  | bad =>
    simp only [PortState.receive, PortState.receiveBad]
    split
    · exact ⟨id, id⟩
    · exact q.bounded_discardFrame
    · exact q.bounded_discardFrame
    · exact q.bounded_discardFrame

theorem PortState.bounded_gapTimeout (q : PortState) : q.Bounded q.gapTimeout := by
  unfold PortState.gapTimeout
  split
  · exact ⟨id, id⟩
  · exact q.bounded_discardFrame
  · exact q.bounded_discardFrame
  · exact q.bounded_discardFrame

theorem PortState.bounded_answerSent (q : PortState) : q.Bounded { q with answers := q.answers.tail } :=
  ⟨id, fun h => by
    show q.answers.tail.length ≤ Config.answerDepth
    rw [List.length_tail]
    omega⟩

/-- Every command answers a next state, in one of the ways of `Ends`. -/
theorem exec_ends (c : Instr) (s : State) : ∃ t, exec c s = .next t ∧ Ends s t := by
  cases c with
  | quadratureEdge pair => exact ⟨_, rfl, .blocks (s.moves_newPair pair)⟩
  | reset pair => exact ⟨_, rfl, .reset pair⟩
  | supplyLoss => exact ⟨_, rfl, .reset s.position.reference⟩
  | frameReceived p ch => exact ⟨_, rfl, .port p _ fun q => q.bounded_receive _ ch⟩
  | characterReceived p ch => exact ⟨_, rfl, .port p _ fun q => q.bounded_receive _ ch⟩
  | frameGapTimeout p => exact ⟨_, rfl, .port p _ PortState.bounded_gapTimeout⟩
  | answerSent p => exact ⟨_, rfl, .port p _ PortState.bounded_answerSent⟩
  | unknownKind p =>
    exact takeFrame_ends (p := p) (wanted := fun k => !kindOfPort p k) (act := fun _ t => (t, .bare .role))
      (fun _ t => .refl t) s
  | programCycleEnd back =>
    cases cycle : s.store.cycle with
    | none => exact ⟨s, by simp only [exec, execProgramCycleEnd, cycle], .idle⟩
    | some c =>
      exact ⟨_, by simp only [exec, execProgramCycleEnd, cycle],
        .blocks ((Move.store (s.store.finish c back)).run.tail (.latches s.line.jobDone true))⟩
  | setLine => exact takeSupervisor_ends moves_setLineRequest s
  | setStation => exact takeSupervisor_ends moves_setStationRequest s
  | setDie => exact takeSupervisor_ends moves_setDieRequest s
  | setRules => exact takeSupervisor_ends moves_setRulesRequest s
  | store => exact takeSupervisor_ends moves_storeRequest s
  | erase => exact takeSupervisor_ends moves_eraseRequest s
  | readRecipe => exact takeSupervisor_ends (fun n t => .of_eq (readRecipeRequest_state n t)) s
  | stage => exact takeSupervisor_ends moves_stageRequest s
  | stageInline => exact takeSupervisor_ends moves_stageInlineRequest s
  | discard => exact takeSupervisor_ends moves_discardRequest s
  | changeover => exact takeSupervisor_ends moves_changeoverRequest s
  | endJob => exact takeSupervisor_ends moves_endJobRequest s
  | stop => exact takeSupervisor_ends moves_stopRequest s
  | resume => exact takeSupervisor_ends moves_resumeRequest s
  | purge => exact takeSupervisor_ends moves_purgeRequest s
  | markSample => exact takeSupervisor_ends moves_markSampleRequest s
  | readStatus => exact takeSupervisor_ends moves_readStatusRequest s
  | readSet => exact takeSupervisor_ends (fun n t => .of_eq (readSetRequest_state n t)) s
  | readPlan => exact takeSupervisor_ends (fun n t => .of_eq (readPlanRequest_state n t)) s
  | readHistory => exact takeSupervisor_ends moves_readHistoryRequest s
  | rewind => exact takeSupervisor_ends moves_rewindRequest s
  | readPortStatus => exact takeSupervisor_ends moves_readPortStatusRequest s
  | openSet p => exact takeCollator_ends moves_openRequest s
  | sheet p => exact takeCollator_ends moves_sheetRequest s
  | closeSet p => exact takeCollator_ends moves_closeRequest s
  | abandon p => exact takeCollator_ends moves_abandonRequest s
  | edge p => exact takeRequest_ends (moves_edgeRequest p) s
  | lift p => exact takeRequest_ends (moves_liftRequest p) s
  | done p => exact takeRequest_ends (moves_doneRequest p) s
  | fault p => exact takeRequest_ends (moves_faultRequest p) s
  | diverted p => exact takeRequest_ends (moves_divertedRequest p) s

theorem exec_eq_next {c : Instr} {s t : State} (h : exec c s = .next t) : Ends s t := by
  obtain ⟨u, e, ends⟩ := exec_ends c s
  rw [e] at h
  cases h
  exact ends

/-! What no move touches. -/

/-- A purge is a run of leavings. -/
theorem State.purge_keeps {Inv : State → Prop} (leave : ∀ (s : State) x, Inv s → Inv (s.leave .purge x)) :
    ∀ (l : List SetRecord) (s : State), Inv s → Inv (l.foldl (fun t x => t.leave .purge x) s)
  | [], _, h => h
  | x :: l, s, h => State.purge_keeps leave l _ (leave s x h)

theorem Move.pending {s t : State} (m : Move s t) : t.pending = s.pending := by
  cases m with
  | leave w x => exact (s.sameOutside_leave w x).pending
  | purge =>
    exact State.purge_keeps (Inv := fun t => t.pending = s.pending)
      (fun t x h => (t.sameOutside_leave .purge x).pending.trans h) _ s rfl
  | release => exact s.sameOutside_releaseLine.pending
  | _ => rfl

theorem Ends.pending {s t : State} (ends : Ends s t) : t.pending = s.pending := by
  have kept {u v : State} (m : Moves u v) : v.pending = u.pending :=
    m.keep (Inv := fun t => t.pending = u.pending) (fun m h => m.pending.trans h) rfl
  cases ends with
  | idle | reset | port => rfl
  | blocks m => exact (kept m : _)
  | request taking m => exact (kept m : _)

/-- Settles O2: `exec_ends` gives the next state, and neither moves nor ports touch the commands that wait. -/
theorem everyCommandAnswersNext : Obligations.EveryCommandAnswersNext := by
  unfold Obligations.EveryCommandAnswersNext
  intro c s
  obtain ⟨t, e, ends⟩ := exec_ends c s
  exact ⟨t, e, ends.pending⟩

/-- A property that reads neither ports nor ATTN nor the commands that wait is kept by every step if every move keeps it
and a reset establishes it. -/
theorem step_keeps {Inv : State → Prop} (unseen : ∀ (s : State) v a l, Inv s →
      Inv { s with ports := v, line := { s.line with attn := a }, pending := l })
    (reset : ∀ pair store pending, Inv (State.afterReset pair store pending))
    (move : ∀ {s t : State}, Move s t → Inv s → Inv t) {s t : State} (h : Inv s) (stepped : step s = .next t) :
    Inv t := by
  unfold step at stepped
  split at stepped
  · cases stepped
    exact h
  next rest _ =>
    have h' : Inv { s with pending := rest } := unseen s s.ports s.line.attn rest h
    cases exec_eq_next stepped with
    | idle => exact h'
    | reset => exact reset _ _ _
    | port p f => exact unseen s _ _ rest h
    | @blocks u m => exact unseen u u.ports _ u.pending (m.keep move h')
    | @request p f waiting u _ m answer =>
      exact unseen u _ _ u.pending (m.keep move (unseen s _ s.line.attn rest h))

end Sys2Proof.Machine
end

/-! ### The laws of the line and of the limits -/

section
namespace Sys2Proof.Machine

/-! The reject-run count (R135, R136). -/

theorem runAfter_within {limit run : Nat} (most : run ≤ Config.rejectRunMax) (below : 0 < limit → run < limit)
    (o : Outlet) : runAfter limit run o ≤ Config.rejectRunMax ∧ (0 < limit → runAfter limit run o < limit) := by
  cases o with
  | accept => exact ⟨Nat.zero_le _, id⟩
  | unresolved | abandoned | purged => exact ⟨most, below⟩
  | reject | rework =>
    simp only [runAfter]
    split
    next => exact ⟨Nat.zero_le _, id⟩
    next other =>
      refine ⟨Nat.min_le_right _ _, fun set => ?_⟩
      have reached : min (run + 1) Config.rejectRunMax ≠ limit := fun e => other ⟨set, e⟩
      have := below set
      omega

theorem State.RunLaw.leave {s : State} (h : s.RunLaw) (w : Leaving) (x : SetRecord) : (s.leave w x).RunLaw := by
  unfold State.RunLaw
  rw [State.verdict_leave, (s.sameOutside_leave w x).lineConfig]
  exact runAfter_within h.1 h.2 _

theorem Move.runLaw {s t : State} (m : Move s t) (h : s.RunLaw) : t.RunLaw := by
  cases m with
  | leave w x => exact h.leave w x
  | purge => exact State.purge_keeps (Inv := State.RunLaw) (fun t x h => State.RunLaw.leave h .purge x) _ s h
  | release =>
    unfold State.RunLaw
    rw [State.verdict_releaseLine, s.sameOutside_releaseLine.lineConfig]
    exact h
  | resume | configure => exact ⟨Nat.zero_le _, id⟩
  | _ => exact h

/-! The configuration (R97). -/

theorem LineControl.handCause_unconfigured {l : LineControl} {c : Cause} :
    (l.handCause c).state = .unconfigured ↔ l.state = .unconfigured := by
  cases h : l.state <;> simp [LineControl.handCause, h]

theorem LineControl.jobComplete_unconfigured {l : LineControl} :
    l.jobComplete.state = .unconfigured ↔ l.state = .unconfigured := by
  cases h : l.state <;> simp [LineControl.jobComplete, h]

theorem LineControl.validated_state {l : LineControl} (setup : l.state.isSetup = true) (valid : Bool) :
    (l.validated valid).state = if valid then .idle else .unconfigured := by
  obtain h | h := (isSetup_iff _).1 setup <;> simp only [LineControl.validated, h]

/-- The line leaves UNCONFIGURED only by a validation that finds the configuration valid (R97). -/
theorem State.revalidate_configLaw {s : State} (setup : s.line.state.isSetup = true) : s.revalidate.1.ConfigLaw := by
  intro configured
  show (validate s.tracker.stations s.tracker.lineConfig).result = .ok
  have state := LineControl.validated_state setup ((validate s.tracker.stations s.tracker.lineConfig).result == .ok)
  refine Classical.byContradiction fun invalid => configured ?_
  rw [if_neg (mt beq_iff_eq.1 invalid)] at state
  exact state

theorem State.ConfigLaw.leave {s : State} (h : s.ConfigLaw) (w : Leaving) (x : SetRecord) :
    (s.leave w x).ConfigLaw := by
  unfold State.ConfigLaw
  rw [(s.sameOutside_leave w x).stations, (s.sameOutside_leave w x).lineConfig]
  exact s.leave_keeps_line (P := fun l => l.state ≠ .unconfigured →
      (validate s.tracker.stations s.tracker.lineConfig).result = .ok)
    (fun _ h => h) (fun _ h state => h (mt LineControl.jobComplete_unconfigured.2 state))
    (fun _ _ h state => h (mt LineControl.handCause_unconfigured.2 state)) (fun l drain h _ => h (by simp [drain])) w x h

theorem Move.configLaw {s t : State} (m : Move s t) (h : s.ConfigLaw) : t.ConfigLaw := by
  cases m with
  | leave w x => exact h.leave w x
  | purge => exact State.purge_keeps (Inv := State.ConfigLaw) (fun t x h => State.ConfigLaw.leave h .purge x) _ s h
  | cause => exact fun state => h (mt LineControl.handCause_unconfigured.2 state)
  | complete => exact fun state => h (mt LineControl.jobComplete_unconfigured.2 state)
  | changeover _ configured => exact fun _ => h configured
  | release =>
    unfold State.releaseLine
    split
    next drained => exact fun _ => h (by simp [drained.1])
    next => exact h
  | resume ret halt => exact fun _ => h (by simp [halt])
  | configure c setup => exact State.revalidate_configLaw setup
  | station p e setup => exact State.revalidate_configLaw setup
  | _ => exact h

/-! The miss counts and the divider tally (R2, R100). -/

theorem divider_of_lineConfigFailure {c : LineConfig} (fits : lineConfigFailure c = none) :
    c.divider = 1 ∨ c.divider = 2 ∨ c.divider = 4 := by
  have all := (firstFailure_eq_none_iff _).1 fits
  have divider := all (c.divider == 1 || c.divider == 2 || c.divider == 4, ⟨1, 0⟩) (by simp)
  simpa [or_assoc] using divider

theorem missCounts_set_lt {counts : PerStation Nat} (h : ∀ p, counts.get p < Config.missRun) {n : Nat}
    (few : n < Config.missRun) (p q : StationPort) : (counts.set p n).get q < Config.missRun := by
  by_cases same : q = p
  · rw [same, PerStation.get_set_self]
    exact few
  · rw [PerStation.get_set_of_ne counts n same]
    exact h q

theorem State.TallyLaw.leave {s : State} (h : s.TallyLaw) (w : Leaving) (x : SetRecord) : (s.leave w x).TallyLaw := by
  unfold State.TallyLaw
  rw [State.tracker_leave, (s.sameOutside_leave w x).position]
  exact h

theorem Move.tallyLaw {s t : State} (m : Move s t) (h : s.TallyLaw) : t.TallyLaw := by
  obtain ⟨misses, tally, divider⟩ := h
  cases m with
  | position p below => exact ⟨misses, below tally, divider⟩
  | misses p n few => exact ⟨missCounts_set_lt misses few p, tally, divider⟩
  | leave w x => exact State.TallyLaw.leave ⟨misses, tally, divider⟩ w x
  | purge =>
    exact State.purge_keeps (Inv := State.TallyLaw) (fun t x h => State.TallyLaw.leave h .purge x) _ s
      ⟨misses, tally, divider⟩
  | release =>
    unfold State.TallyLaw
    rw [State.tracker_releaseLine, s.sameOutside_releaseLine.position]
    exact ⟨misses, tally, divider⟩
  | configure c setup fits =>
    have allowed := divider_of_lineConfigFailure fits
    exact ⟨misses, show 0 < c.divider by omega, allowed⟩
  | station p e => exact ⟨missCounts_set_lt misses (by decide) p, tally, divider⟩
  | _ => exact ⟨misses, tally, divider⟩

/-! The die record (R53). -/

theorem State.DieLaw.leave {s : State} (h : s.DieLaw) (w : Leaving) (x : SetRecord) : (s.leave w x).DieLaw := by
  unfold State.DieLaw
  rw [(s.sameOutside_leave w x).die]
  exact h

theorem State.DieLaw.setSlot {s : State} (h : s.DieLaw) (i : SlotId) (x : PlanSlot) : (s.setSlot i x).DieLaw := by
  unfold State.DieLaw
  rw [(s.sameOutside_setSlot i x).die]
  exact h

theorem Move.dieLaw {s t : State} (m : Move s t) (h : s.DieLaw) : t.DieLaw := by
  cases m with
  | leave w x => exact h.leave w x
  | purge => exact State.purge_keeps (Inv := State.DieLaw) (fun t x h => State.DieLaw.leave h .purge x) _ s h
  | opening i => exact h.setSlot i ((s.plan.slot i).mapJob Job.countOpened)
  | stage i => exact h.setSlot i _
  | discard i => exact h.setSlot i .free
  | die d fits =>
    rintro _ ⟨⟩
    exact fits
  | release =>
    unfold State.DieLaw
    rw [s.sameOutside_releaseLine.die]
    exact h
  | _ => exact h

/-! The outputs (R144, R151, R152). -/

/-- LSTOP is asserted exactly in HALT, and outside HALT no cause is held. -/
structure LineControl.Coherent (l : LineControl) : Prop where
  lstop : l.lstop = l.state.isHalt
  causes : l.state.isHalt = false → l.causes = {}

theorem LineControl.Coherent.handCause {l : LineControl} (h : l.Coherent) (c : Cause) : (l.handCause c).Coherent := by
  obtain ⟨state, e⟩ | ⟨state, e⟩ | ⟨⟨r, state⟩, e⟩ | ⟨-, e⟩ := l.handCause_cases c <;> rw [e]
  · exact ⟨rfl, nofun⟩
  · exact ⟨rfl, nofun⟩
  · exact ⟨h.lstop, by simp [state, LineState.isHalt]⟩
  · exact h

/-- A change of the line state that stays on the same side of HALT. -/
theorem LineControl.Coherent.withState {l : LineControl} (h : l.Coherent) {state : LineState}
    (side : state.isHalt = l.state.isHalt) : ({ l with state := state } : LineControl).Coherent :=
  ⟨h.lstop.trans side.symm, fun running => h.causes (side.symm.trans running)⟩

theorem LineControl.Coherent.jobComplete {l : LineControl} (h : l.Coherent) : l.jobComplete.Coherent := by
  unfold LineControl.jobComplete
  split
  next state => exact h.withState (by rw [state]; rfl)
  next state => exact h.withState (by rw [state]; rfl)
  all_goals exact h

theorem LineControl.Coherent.changeover {l : LineControl} (h : l.Coherent) : l.changeover.Coherent := by
  cases state : l.state <;> simp only [LineControl.changeover, state]
  case unconfigured => exact h
  all_goals exact h.withState (by simp only [state, LineState.isHalt])

theorem LineControl.Coherent.validated {l : LineControl} (h : l.Coherent) (valid : Bool) :
    (l.validated valid).Coherent := by
  cases state : l.state <;> simp only [LineControl.validated, state]
  case unconfigured | idle => exact h.withState (by rw [state]; cases valid <;> rfl)
  all_goals exact h

theorem LineControl.Coherent.idle {l : LineControl} (h : l.Coherent) (drain : l.state = .drain) :
    ({ l with state := .idle } : LineControl).Coherent :=
  h.withState (by rw [drain]; rfl)

theorem LineControl.Coherent.latches {l : LineControl} (h : l.Coherent) (j e : Bool) :
    ({ l with jobDone := j, storeEnd := e } : LineControl).Coherent := ⟨h.lstop, h.causes⟩

theorem State.coherent_leave {s : State} (h : s.line.Coherent) (w : Leaving) (x : SetRecord) :
    (s.leave w x).line.Coherent :=
  s.leave_keeps_line (P := LineControl.Coherent) (fun l h => h.latches true l.storeEnd) (fun _ h => h.jobComplete)
    (fun _ c h => h.handCause c) (fun _ drain h => h.idle drain) w x h

theorem Move.coherent {s t : State} (m : Move s t) (h : s.line.Coherent) : t.line.Coherent := by
  cases m with
  | latches j e => exact h.latches j e
  | cause c => exact h.handCause c
  | leave w x => exact State.coherent_leave h w x
  | purge => exact State.purge_keeps (Inv := fun s => s.line.Coherent) (fun t x h => State.coherent_leave h .purge x) _ s h
  | changeover => exact h.changeover
  | complete => exact h.jobComplete
  | release =>
    unfold State.releaseLine
    split
    next drained => exact h.idle drained.1
    next => exact h
  | resume ret => exact ⟨by cases ret <;> rfl, fun _ => rfl⟩
  | configure | station => exact h.validated _
  | _ => exact h

/-- ATTN is driven wherever a step could have changed what it follows (R152). -/
theorem step_drives_attn {s t : State} (h : s.line.attn = s.attnCondition) (stepped : step s = .next t) :
    t.line.attn = t.attnCondition := by
  unfold step at stepped
  split at stepped
  · cases stepped
    exact h
  · cases exec_eq_next stepped with
    | idle => exact h
    | reset => rfl
    | port | blocks | request => rw [State.attn_driveAttn, State.attnCondition_driveAttn]

theorem step_keeps_outputLaw {s t : State} (h : s.OutputLaw) (stepped : step s = .next t) : t.OutputLaw := by
  obtain ⟨lstop, attn, causes⟩ := h
  have kept : t.line.Coherent := step_keeps (Inv := fun s => s.line.Coherent) (fun _ _ _ _ h => ⟨h.lstop, h.causes⟩)
    (fun _ _ _ => ⟨rfl, fun _ => rfl⟩) Move.coherent ⟨lstop, causes⟩ stepped
  exact ⟨kept.lstop, step_drives_attn attn stepped, kept.causes⟩

/-- Settles O60: each law reads neither ports nor ATTN nor the commands that wait, a reset establishes it, and every move
keeps it; ATTN itself is driven at the end of each step. -/
theorem stepKeepsLineAndLimits : Obligations.StepKeepsLineAndLimits := by
  unfold Obligations.StepKeepsLineAndLimits
  refine ⟨fun s t => ?_, fun s t => ?_, fun s t => ?_, fun s t => ?_, fun s t => step_keeps_outputLaw⟩
  · exact step_keeps (fun _ _ _ _ h => h) (fun _ _ _ => ⟨Nat.zero_le _, id⟩) Move.runLaw
  · exact step_keeps (fun _ _ _ _ h => h) (fun _ _ _ => absurd rfl) Move.configLaw
  · exact step_keeps (fun _ _ _ _ h => h)
      (fun _ _ _ => ⟨fun p => by cases p <;> exact Nat.zero_lt_succ 2, Nat.zero_lt_one, .inl rfl⟩) Move.tallyLaw
  · exact step_keeps (fun _ _ _ _ h => h) (fun _ _ _ => nofun) Move.dieLaw

/-! ### The laws of the ports and of the history -/

/-- No move touches the buffers and the answer queues (R166). -/
def SameQueues (s t : State) : Prop :=
  ∀ p, (t.port p).buffer = (s.port p).buffer ∧ (t.port p).answers = (s.port p).answers

theorem sameQueues_of_ports {s t : State} (h : t.ports = s.ports) : SameQueues s t := by
  intro p
  simp only [State.port, h, and_self]

theorem Move.sameQueues {s t : State} (m : Move s t) : SameQueues s t := by
  cases m with
  | leave w x => exact sameQueues_of_ports (s.ports_leave w x)
  | purge => exact sameQueues_of_ports (s.ports_purge _)
  | release => exact sameQueues_of_ports s.ports_releaseLine
  | flags p f buffer answers =>
    intro q
    by_cases same : q = p
    · rw [same, State.port_updatePort_self]
      exact ⟨buffer _, answers _⟩
    · rw [State.port_updatePort_of_ne s f same]
      exact ⟨rfl, rfl⟩
  | _ => exact sameQueues_of_ports rfl

theorem Moves.sameQueues {s t : State} (m : Moves s t) : SameQueues s t :=
  m.keep (Inv := SameQueues s)
    (fun m h p => ⟨(m.sameQueues p).1.trans (h p).1, (m.sameQueues p).2.trans (h p).2⟩) fun _ => ⟨rfl, rfl⟩

theorem State.PortLaw.updatePort {s : State} (h : s.PortLaw) {p : Port} {f : PortState → PortState}
    (changed : (f (s.port p)).buffer.length ≤ Config.bufferDepth ∧ (f (s.port p)).answers.length ≤ Config.answerDepth) :
    (s.updatePort p f).PortLaw := by
  intro q
  by_cases same : q = p
  · rw [same, State.port_updatePort_self]
    exact changed
  · rw [State.port_updatePort_of_ne s f same]
    exact h q

theorem State.PortLaw.moves {s t : State} (h : s.PortLaw) (m : Moves s t) : t.PortLaw := by
  intro p
  obtain ⟨buffer, answers⟩ := m.sameQueues p
  rw [buffer, answers]
  exact h p

/-- A frame is taken only while the answer queue has room for its answer (R166). -/
theorem Ends.portLaw {s t : State} (ends : Ends s t) (h : s.PortLaw) : t.PortLaw := by
  cases ends with
  | idle => exact h
  | reset =>
    intro p
    have blank : (PortState.reset.buffer.length ≤ Config.bufferDepth) ∧
      (PortState.reset.answers.length ≤ Config.answerDepth) := by decide
    cases p with
    | supervisor => exact blank
    | station q => cases q <;> exact blank
  | port p f bounded => exact h.updatePort ⟨(bounded _).buffer (h p).1, (bounded _).answers (h p).2⟩
  | @blocks u m => exact (h.moves m : u.PortLaw)
  | @request p f rest u taking m answer =>
    obtain ⟨buffer, room⟩ := taking
    have popped : (s.withoutFrame p rest).PortLaw := by
      refine h.updatePort ⟨?_, (h p).2⟩
      have full := (h p).1
      rw [buffer, List.length_cons] at full
      exact Nat.le_of_succ_le full
    have acted := popped.moves m
    have answers : (u.port p).answers = (s.port p).answers := by
      rw [(m.sameQueues p).2, State.port_withoutFrame_self]
    refine State.PortLaw.updatePort (f := fun q => { q with answers := q.answers ++ [answer] }) acted
      ⟨(acted p).1, ?_⟩
    show ((u.port p).answers ++ [answer]).length ≤ Config.answerDepth
    rw [answers, List.length_append, List.length_singleton]
    exact room

theorem step_keeps_portLaw {s t : State} (h : s.PortLaw) (stepped : step s = .next t) : t.PortLaw := by
  unfold step at stepped
  split at stepped
  · cases stepped
    exact h
  · exact (exec_eq_next stepped).portLaw h

/-- The history law of a verdict unit. -/
def VerdictUnit.Consecutive (v : VerdictUnit) : Prop :=
  v.history.length ≤ Config.historyDepth ∧
    ∀ k e, v.history[k]? = some e → e.exitNumber = v.nextExit - BitVec.ofNat 32 (v.history.length - k)

/-- An entry appended with the next exit number keeps the numbers consecutive, whether or not the oldest is given up
(R138). -/
theorem VerdictUnit.Consecutive.append {v : VerdictUnit} (h : v.Consecutive) {e : HistoryEntry}
    (next : e.exitNumber = v.nextExit) : (v.append e).Consecutive := by
  obtain ⟨depth, numbers⟩ := h
  have kept : ∀ l : List HistoryEntry, l.length < Config.historyDepth →
      (∀ k e, l[k]? = some e → e.exitNumber = v.nextExit - BitVec.ofNat 32 (l.length - k)) →
      (l ++ [e]).length ≤ Config.historyDepth ∧ ∀ k e', (l ++ [e])[k]? = some e' →
        e'.exitNumber = v.nextExit + 1 - BitVec.ofNat 32 ((l ++ [e]).length - k) := by
    intro l room numbers
    refine ⟨Nat.le_trans (Nat.le_of_eq List.length_append) room, fun k e' found => ?_⟩
    rw [List.length_append, List.length_singleton]
    by_cases old : k < l.length
    · rw [List.getElem?_append_left old] at found
      rw [numbers k e' found, Nat.sub_add_comm (Nat.le_of_lt old), BitVec.ofNat_add]
      bv_omega
    · have last : k = l.length := by
        have := (List.getElem?_eq_some_iff.1 found).1
        rw [List.length_append, List.length_singleton] at this
        omega
      subst last
      rw [List.getElem?_concat_length] at found
      cases found
      rw [next, Nat.add_sub_cancel_left]
      bv_omega
  unfold VerdictUnit.append
  split
  next room => exact kept v.history room numbers
  next full =>
    refine kept v.history.tail ?_ fun k e' found => ?_
    · rw [List.length_tail]
      have : 0 < Config.historyDepth := by decide
      omega
    · rw [List.getElem?_tail] at found
      rw [numbers (k + 1) e' found, List.length_tail, Nat.sub_sub, Nat.add_comm 1 k]

theorem VerdictUnit.consecutive_reset : VerdictUnit.reset.Consecutive := by
  simp [VerdictUnit.Consecutive, VerdictUnit.reset]

theorem State.consecutive_leave {s : State} (h : s.verdict.Consecutive) (w : Leaving) (x : SetRecord) :
    (s.leave w x).verdict.Consecutive := by
  rw [State.verdict_leave]
  exact h.append rfl

theorem Move.consecutive {s t : State} (m : Move s t) (h : s.verdict.Consecutive) : t.verdict.Consecutive := by
  cases m with
  | leave w x => exact State.consecutive_leave h w x
  | purge =>
    exact State.purge_keeps (Inv := fun s => s.verdict.Consecutive) (fun t x h => State.consecutive_leave h .purge x) _ s h
  | release =>
    rw [State.verdict_releaseLine]
    exact h
  | _ => exact h

/-- Settles O57: frames and answers are bounded where they join a queue; only a leaving appends to the history, with the
next exit number. -/
theorem stepKeepsPortsAndHistory : Obligations.StepKeepsPortsAndHistory := by
  unfold Obligations.StepKeepsPortsAndHistory
  refine ⟨fun s t => step_keeps_portLaw, fun s t => ?_⟩
  exact step_keeps (Inv := fun s => s.verdict.Consecutive) (fun _ _ _ _ h => h) (fun _ _ _ => VerdictUnit.consecutive_reset)
    Move.consecutive

end Sys2Proof.Machine
end

/-! ### The number of the next set (R17) -/

section
namespace Sys2Proof.Machine

theorem repeat_add {α : Type} (f : α → α) (i : Nat) (a : α) : ∀ d,
    Nat.repeat f (d + i) a = Nat.repeat f d (Nat.repeat f i a)
  | 0 => by rw [Nat.zero_add, Nat.repeat]
  | d + 1 => by rw [Nat.add_right_comm, Nat.repeat, repeat_add f i a d, Nat.repeat]

/-- The number `d` places after `n`, as far as one round of the numbers. -/
theorem repeat_nextNumberAfter (n : Nat) : ∀ d, d < Config.numberMax →
    Nat.repeat nextNumberAfter d n =
      if n ≤ Config.numberMax ∧ Config.numberMax < n + d then n + d - Config.numberMax else n + d
  | 0, _ => by
    rw [if_neg (by omega)]
    rfl
  | d + 1, h => by
    rw [Nat.repeat, repeat_nextNumberAfter n d (Nat.lt_of_succ_lt h)]
    simp only [nextNumberAfter, Config.numberMax] at *
    repeat' split
    all_goals omega

/-- Within one round no number comes twice. -/
theorem repeat_nextNumberAfter_ne {k i j : Nat} (round : k < Config.numberMax) (n : Nat) (before : i < j)
    (within : j ≤ k) : Nat.repeat nextNumberAfter i n ≠ Nat.repeat nextNumberAfter j n := by
  intro same
  obtain ⟨d, rfl⟩ := Nat.exists_eq_add_of_lt before
  rw [show i + d + 1 = (d + 1) + i by omega, repeat_add, repeat_nextNumberAfter _ (d + 1) (by omega)] at same
  split at same <;> omega

/-- The search passes numbers in use and ends at one that is free or after as many advances as it may make. -/
theorem freshNumber_spec (used : List Nat) : ∀ k n, ∃ m, m ≤ k ∧
    freshNumber used k n = Nat.repeat nextNumberAfter m n ∧
    (∀ i < m, Nat.repeat nextNumberAfter i n ∈ used) ∧ (m < k → Nat.repeat nextNumberAfter m n ∉ used)
  | 0, n => ⟨0, Nat.le_refl 0, rfl, nofun, nofun⟩
  | k + 1, n => by
    have step : ∀ i, Nat.repeat nextNumberAfter i (nextNumberAfter n) = Nat.repeat nextNumberAfter (i + 1) n :=
      fun i => (repeat_add nextNumberAfter 1 n i).symm
    unfold freshNumber
    by_cases taken : n ∈ used
    · obtain ⟨m, within, found, passed, free⟩ := freshNumber_spec used k (nextNumberAfter n)
      rw [if_pos taken]
      rw [step] at found free
      refine ⟨m + 1, Nat.succ_le_succ within, found, fun i before => ?_, fun more => free (Nat.lt_of_succ_lt_succ more)⟩
      cases i with
      | zero => exact taken
      | succ i => exact step i ▸ passed i (Nat.lt_of_succ_lt_succ before)
    · rw [if_neg taken]
      exact ⟨0, Nat.zero_le _, rfl, nofun, fun _ => taken⟩

/-- As many advances as there are records reach a number that no record carries (R17). -/
theorem freshNumber_free {used : List Nat} (round : used.length < Config.numberMax) (n : Nat) :
    ∃ m, m ≤ used.length ∧ freshNumber used used.length n = Nat.repeat nextNumberAfter m n ∧
      (∀ i < m, Nat.repeat nextNumberAfter i n ∈ used) ∧ Nat.repeat nextNumberAfter m n ∉ used := by
  obtain ⟨m, within, found, passed, free⟩ := freshNumber_spec used used.length n
  refine ⟨m, within, found, passed, fun taken => ?_⟩
  have last : m = used.length := Nat.le_antisymm within (Nat.le_of_not_lt fun more => free more taken)
  have passedAll : ((List.range (used.length + 1)).map fun i => Nat.repeat nextNumberAfter i n) ⊆ used := by
    intro number mem
    obtain ⟨i, hi, rfl⟩ := List.mem_map.1 mem
    obtain before | rfl := Nat.lt_or_eq_of_le (Nat.le_of_lt_succ (List.mem_range.1 hi))
    · exact passed i (by omega)
    · exact last ▸ taken
  have distinct : ((List.range (used.length + 1)).map fun i => Nat.repeat nextNumberAfter i n).Nodup := by
    refine List.pairwise_map.2 (List.pairwise_lt_range.imp_of_mem fun {i j} _ hj before => ?_)
    exact repeat_nextNumberAfter_ne round n before (Nat.le_of_lt_succ (List.mem_range.1 hj))
  have crowd := distinct.length_le_of_subset passedAll
  rw [List.length_map, List.length_range] at crowd
  omega

theorem SetTracker.freshNumber_notMem {t : SetTracker} (depth : t.queue.length ≤ Config.queueDepth) :
    t.freshNumber ∉ t.queue.map (·.number) := by
  unfold SetTracker.freshNumber
  have few : (t.queue.map (·.number)).length < Config.numberMax := by
    rw [List.length_map]
    exact Nat.lt_of_le_of_lt depth (by decide)
  obtain ⟨m, -, found, -, free⟩ := freshNumber_free few t.nextNumber
  rw [List.length_map] at found
  rw [found]
  exact free

end Sys2Proof.Machine
end

/-! ### The laws of the tracking queue and the plan slots -/

section
namespace Sys2Proof.Machine

/-! The tracking queue: at most 16 records, distinct numbers, and only the last may gather (R16, R18). -/

/-- What holds of all but the last element holds of the first of every two. -/
theorem forall_mem_dropLast_iff {α : Type} {P : α → Prop} (l : List α) :
    (∀ x ∈ l.dropLast, P x) ↔ l.Pairwise fun x _ => P x := by
  induction l with
  | nil => simp
  | cons a l ih =>
    cases l with
    | nil => simp
    | cons b l =>
      rw [List.dropLast_cons_of_ne_nil (List.cons_ne_nil b l), List.forall_mem_cons, ih, List.pairwise_cons]
      simp +contextual

/-- The law of the queue alone. -/
structure QueueFits (q : List SetRecord) : Prop where
  depth : q.length ≤ Config.queueDepth
  nodup : (q.map (·.number)).Nodup
  gathering : q.Pairwise fun x _ => x.isGathering = false

theorem State.queueLaw_iff (s : State) : s.QueueLaw ↔ QueueFits s.tracker.queue := by
  unfold State.QueueLaw
  rw [forall_mem_dropLast_iff]
  exact ⟨fun ⟨depth, nodup, gathering⟩ => ⟨depth, nodup, gathering⟩, fun h => ⟨h.depth, h.nodup, h.gathering⟩⟩

theorem QueueFits.filter {q : List SetRecord} (h : QueueFits q) (keep : SetRecord → Bool) : QueueFits (q.filter keep) :=
  ⟨Nat.le_trans (List.length_filter_le keep q) h.depth, h.nodup.sublist (List.filter_sublist.map _), h.gathering.filter keep⟩

theorem QueueFits.map {q : List SetRecord} (h : QueueFits q) {f : SetRecord → SetRecord}
    (keeps : ∀ x ∈ q, x.Keeps (f x)) : QueueFits (q.map f) := by
  refine ⟨by simpa using h.depth, ?_, ?_⟩
  · have same : (q.map f).map (·.number) = q.map (·.number) := by
      rw [List.map_map]
      exact List.map_congr_left fun x mem => (keeps x mem).number
    rw [same]
    exact h.nodup
  · rw [List.pairwise_map]
    refine h.gathering.imp_of_mem fun {x _} mem _ closed => ?_
    exact Bool.eq_false_iff.2 fun gathers => by simp [(keeps x mem).gathering gathers] at closed

theorem QueueFits.append {q : List SetRecord} (h : QueueFits q) {x : SetRecord} (room : q.length < Config.queueDepth)
    (fresh : x.number ∉ q.map (·.number)) (closed : ∀ y ∈ q, y.isGathering = false) : QueueFits (q ++ [x]) := by
  refine ⟨Nat.le_trans (Nat.le_of_eq List.length_append) room, ?_, ?_⟩
  · rw [List.map_append, List.map_singleton]
    refine List.pairwise_append.2 ⟨h.nodup, List.pairwise_singleton _ _, fun number used new last same => fresh ?_⟩
    rwa [← List.mem_singleton.1 last, ← same]
  · exact List.pairwise_append.2 ⟨h.gathering, List.pairwise_singleton _ _, fun y mem _ _ => closed y mem⟩

/-- A record that is removed leaves the others in place. -/
theorem QueueFits.perm_remove {q : List SetRecord} (h : QueueFits q) {x : SetRecord} (here : x ∈ q) :
    q.Perm (x :: q.filter fun y => y.number ≠ x.number) := by
  have others : q.filter (fun y => y.number ≠ x.number) = q.erase x := by
    have nodup : q.Nodup := (List.pairwise_map.1 h.nodup).imp fun apart same => apart (congrArg _ same)
    rw [nodup.erase_eq_filter]
    refine List.filter_congr fun y mem => ?_
    by_cases same : y = x
    · simp [same]
    · have apart : y.number ≠ x.number := fun e => same (eq_of_number_eq h.nodup mem here e)
      simp [same, apart]
  rw [others]
  exact List.perm_cons_erase here

/-! A slot's count against the number of its records (R86, R88). -/

/-- The law of one slot with `n` records in the queue. -/
def PlanSlot.Counts (x : PlanSlot) (n : Nat) : Prop :=
  match x with
  | .free => n = 0
  | .staged j => n = 0 ∧ j.inQueue = 0
  | .current _ j => j.inQueue = n
  | .draining _ j => j.inQueue = n ∧ 0 < j.inQueue

theorem State.countLaw_iff (s : State) (i : SlotId) : s.CountLaw i ↔ (s.plan.slot i).Counts (s.recordsOf i) := by
  unfold State.CountLaw PlanSlot.Counts
  cases s.plan.slot i <;> rfl

/-- One set opened: one record more, counted (R86). -/
theorem PlanSlot.Counts.opened {x : PlanSlot} {n : Nat} (h : x.Counts n) (current : x.isCurrent = true) :
    (x.mapJob Job.countOpened).Counts (n + 1) := by
  cases x with
  | current m j => exact congrArg Nat.succ h
  | free | staged | draining => cases current

/-- One set that leaves: one record fewer, and a DRAINING slot without any becomes FREE (R86, R88). -/
theorem PlanSlot.Counts.released {x : PlanSlot} {n : Nat} (h : x.Counts (n + 1)) {f : Job → Job}
    (keeps : ∀ j, (f j).inQueue = j.inQueue) : (x.mapJob f).release.Counts n := by
  cases x with
  | free => cases h
  | staged j => cases h.1
  | current m j =>
    show (f j).inQueue - 1 = n
    rw [keeps, h, Nat.add_sub_cancel]
  | draining m j =>
    obtain ⟨count, -⟩ := h
    simp only [PlanSlot.mapJob, PlanSlot.release, keeps, count, Nat.add_sub_cancel]
    split
    next none => exact none
    next some => exact ⟨rfl, Nat.pos_of_ne_zero some⟩

/-- A changeover moves no record (R84, R85). -/
theorem PlanSlot.Counts.changeover {x : PlanSlot} {n : Nat} (h : x.Counts n) (number : Nat) :
    (x.displace.makeCurrent number).Counts n := by
  cases x with
  | free => exact h
  | staged j => exact h.1.symm
  | draining m j => exact h
  | current m j =>
    simp only [PlanSlot.displace]
    split
    next some => exact ⟨h, some⟩
    next none =>
      have count : j.inQueue = n := h
      show n = 0
      omega

/-! The states of the two slots (R78, R145). -/

/-- A slot that takes the place of another is of its state, or FREE. -/
structure PlanSlot.Within (y x : PlanSlot) : Prop where
  staged : y.isStaged = true → x.isStaged = true
  current : y.isCurrent = true → x.isCurrent = true
  draining : y.isDraining = true → x.isDraining = true

theorem PlanSlot.within_free (x : PlanSlot) : PlanSlot.free.Within x := ⟨nofun, nofun, nofun⟩

theorem PlanSlot.within_mapJob (x : PlanSlot) (f : Job → Job) : (x.mapJob f).Within x :=
  ⟨by simp, by simp, by simp⟩

theorem PlanSlot.within_release (x : PlanSlot) : x.release.Within x := by
  cases x with
  | draining m j =>
    simp only [PlanSlot.release]
    split
    · exact PlanSlot.within_free _
    · exact ⟨nofun, nofun, fun _ => rfl⟩
  | free | staged | current => exact ⟨id, id, id⟩

theorem PlanSlot.Within.trans {x y z : PlanSlot} (h : z.Within y) (k : y.Within x) : z.Within x :=
  ⟨k.staged ∘ h.staged, k.current ∘ h.current, k.draining ∘ h.draining⟩

theorem PlanSlot.Within.isRunning {x y : PlanSlot} (h : y.Within x) (idle : x.isRunning = false) :
    y.isRunning = false := by
  unfold PlanSlot.isRunning at *
  rw [Bool.or_eq_false_iff] at *
  exact ⟨Bool.eq_false_iff.2 fun c => by simp [h.current c] at idle,
    Bool.eq_false_iff.2 fun d => by simp [h.draining d] at idle⟩

@[simp] theorem PlanSlot.isCurrent_release (x : PlanSlot) : x.release.isCurrent = x.isCurrent := by
  cases x with
  | draining m j =>
    simp only [PlanSlot.release]
    split <;> rfl
  | free | staged | current => rfl

theorem PlanUnit.Distinct.setSlot {u : PlanUnit} (h : u.Distinct) {i : SlotId} {y : PlanSlot}
    (within : y.Within (u.slot i)) : (u.setSlot i y).Distinct := by
  obtain ⟨staged, current, draining⟩ := h
  cases i with
  | a =>
    exact ⟨fun both => staged ⟨within.staged both.1, both.2⟩, fun both => current ⟨within.current both.1, both.2⟩,
      fun both => draining ⟨within.draining both.1, both.2⟩⟩
  | b =>
    exact ⟨fun both => staged ⟨both.1, within.staged both.2⟩, fun both => current ⟨both.1, within.current both.2⟩,
      fun both => draining ⟨both.1, within.draining both.2⟩⟩

theorem PlanUnit.currentSlot_isSome (u : PlanUnit) :
    u.currentSlot.isSome = true ↔ ∃ i, (u.slot i).isCurrent = true := by
  unfold PlanUnit.currentSlot PlanUnit.findSlot
  constructor
  · intro found
    by_cases a : u.slotA.isCurrent = true
    · exact ⟨.a, a⟩
    · by_cases b : u.slotB.isCurrent = true
      · exact ⟨.b, b⟩
      · simp [a, b] at found
  · rintro ⟨i, current⟩
    cases i with
    | a => simp [show u.slotA.isCurrent = true from current]
    | b =>
      rw [if_pos (show u.slotB.isCurrent = true from current)]
      split <;> rfl

/-- Before a job runs the queue is empty and no slot runs; from then on a slot is CURRENT (R145). -/
structure SlotsFit (setup : Bool) (q : List SetRecord) (slot : SlotId → PlanSlot) : Prop where
  empty : setup = true → q = []
  idle : setup = true → ∀ i, (slot i).isRunning = false
  current : setup = false → ∃ i, (slot i).isCurrent = true

theorem State.idleLaw_iff (s : State) :
    s.IdleLaw ↔ SlotsFit s.line.state.isSetup s.tracker.queue s.plan.slot := by
  unfold State.IdleLaw
  cases s.line.state.isSetup with
  | true =>
    refine ⟨fun ⟨empty, a, b⟩ => ⟨fun _ => empty, fun _ i => ?_, nofun⟩, fun h =>
      ⟨h.empty rfl, h.idle rfl .a, h.idle rfl .b⟩⟩
    cases i with
    | a => exact a
    | b => exact b
  | false => exact (s.plan.currentSlot_isSome).trans ⟨fun h => ⟨nofun, nofun, fun _ => h⟩, fun h => h.current rfl⟩

/-- The law of queue and slots, part by part. -/
structure SlotsLawful (setup : Bool) (q : List SetRecord) (u : PlanUnit) : Prop where
  queue : QueueFits q
  slots : SlotsFit setup q u.slot
  counts : ∀ i, (u.slot i).Counts (q.countP fun x => x.slot = i)
  distinct : u.Distinct

theorem State.recordsOf_eq (s : State) (i : SlotId) : s.recordsOf i = s.tracker.queue.countP fun x => x.slot = i :=
  List.countP_eq_length_filter.symm

theorem State.slotLaw_iff (s : State) :
    s.SlotLaw ↔ SlotsLawful s.line.state.isSetup s.tracker.queue s.plan := by
  unfold State.SlotLaw
  simp only [State.queueLaw_iff, State.idleLaw_iff, State.countLaw_iff, State.recordsOf_eq]
  refine ⟨fun ⟨queue, slots, a, b, distinct⟩ => ⟨queue, slots, fun i => ?_, distinct⟩,
    fun h => ⟨h.queue, h.slots, h.counts .a, h.counts .b, h.distinct⟩⟩
  cases i with
  | a => exact a
  | b => exact b

/-! What each kind of move makes of the law. -/

/-- Records that are changed in their places. -/
theorem SlotsLawful.record {setup : Bool} {q : List SetRecord} {u : PlanUnit} (h : SlotsLawful setup q u)
    {f : SetRecord → SetRecord} (keeps : ∀ x ∈ q, x.Keeps (f x)) : SlotsLawful setup (q.map f) u := by
  refine ⟨h.queue.map keeps, ⟨fun before => ?_, h.slots.idle, h.slots.current⟩, fun i => ?_, h.distinct⟩
  · rw [h.slots.empty before]
    rfl
  · have same : (q.map f).countP (fun x => x.slot = i) = q.countP fun x => x.slot = i := by
      rw [List.countP_map]
      refine List.countP_congr fun x mem => ?_
      simp only [Function.comp_apply, (keeps x mem).slot]
    rw [same]
    exact h.counts i

/-- A slot that is replaced by one of its state with the count that the queue asks for. -/
theorem SlotsLawful.setSlot {setup : Bool} {q q' : List SetRecord} {u : PlanUnit} (h : SlotsLawful setup q u)
    (queue : QueueFits q') (empty : setup = true → q' = []) {i : SlotId} {y : PlanSlot} (within : y.Within (u.slot i))
    (current : setup = false → y.isCurrent = (u.slot i).isCurrent) (count : y.Counts (q'.countP fun x => x.slot = i))
    (others : ∀ k, k ≠ i → q'.countP (fun x => x.slot = k) = q.countP fun x => x.slot = k) :
    SlotsLawful setup q' (u.setSlot i y) := by
  refine ⟨queue, ⟨empty, fun before k => ?_, fun running => ?_⟩, fun k => ?_, h.distinct.setSlot within⟩
  · by_cases same : k = i
    · rw [same, PlanUnit.slot_setSlot_self]
      exact within.isRunning (h.slots.idle before i)
    · rw [PlanUnit.slot_setSlot_of_ne u y same]
      exact h.slots.idle before k
  · obtain ⟨k, runs⟩ := h.slots.current running
    refine ⟨k, ?_⟩
    by_cases same : k = i
    · rw [same, PlanUnit.slot_setSlot_self, current running, ← same]
      exact runs
    · rw [PlanUnit.slot_setSlot_of_ne u y same]
      exact runs
  · by_cases same : k = i
    · rw [same, PlanUnit.slot_setSlot_self]
      exact count
    · rw [PlanUnit.slot_setSlot_of_ne u y same, others k same]
      exact h.counts k

/-- A STAGED slot holds no record, and freeing it takes nothing from the queue (R82). -/
theorem SlotsLawful.discard {setup : Bool} {q : List SetRecord} {u : PlanUnit} (h : SlotsLawful setup q u) {i : SlotId}
    (staged : (u.slot i).isStaged = true) : SlotsLawful setup q (u.setSlot i .free) := by
  have count := h.counts i
  cases slot : u.slot i with
  | staged j =>
    rw [slot] at count
    exact h.setSlot h.queue h.slots.empty (PlanSlot.within_free _) (fun _ => by rw [slot]; rfl) count.1 fun _ _ => rfl
  | free | current | draining =>
    rw [slot] at staged
    cases staged

/-- A set that leaves takes its record and its place in its slot's count (R86, R88). -/
theorem SlotsLawful.leave {setup : Bool} {q : List SetRecord} {u : PlanUnit} (h : SlotsLawful setup q u)
    {x : SetRecord} (here : x ∈ q) {f : Job → Job} (keeps : ∀ j, (f j).inQueue = j.inQueue) :
    SlotsLawful setup (q.filter fun y => y.number ≠ x.number)
      (u.setSlot x.slot ((u.slot x.slot).mapJob f).release) := by
  have removed := h.queue.perm_remove here
  have own : q.countP (fun y => y.slot = x.slot) =
      (q.filter fun y => y.number ≠ x.number).countP (fun y => y.slot = x.slot) + 1 := by
    rw [removed.countP_eq, List.countP_cons_of_pos (by simp)]
  have counts := h.counts x.slot
  rw [own] at counts
  refine h.setSlot (h.queue.filter _) (fun before => ?_)
    ((PlanSlot.within_release _).trans (PlanSlot.within_mapJob _ f)) (fun _ => by simp) (counts.released keeps) ?_
  · rw [h.slots.empty before]
    rfl
  · intro k apart
    rw [removed.countP_eq, List.countP_cons_of_neg (by simpa using Ne.symm apart)]

/-- With the queue empty no slot is DRAINING, and the freeing of the CURRENT slot leaves none that runs (R88, R89). -/
theorem SlotsLawful.release {u : PlanUnit} (h : SlotsLawful false [] u) : SlotsLawful true [] u.freeCurrent := by
  have freed : ∀ x : PlanSlot, x.Counts 0 →
      x.freeIfCurrent.isRunning = false ∧ x.freeIfCurrent.Counts 0 ∧ x.freeIfCurrent.Within x := by
    intro x count
    cases x with
    | free => exact ⟨rfl, rfl, id, id, id⟩
    | staged j => exact ⟨rfl, count, id, id, id⟩
    | current n j => exact ⟨rfl, rfl, PlanSlot.within_free _⟩
    | draining n j => exact absurd count.1 (Nat.ne_of_gt count.2)
  obtain ⟨idleA, countA, withinA⟩ := freed u.slotA (h.counts .a)
  obtain ⟨idleB, countB, withinB⟩ := freed u.slotB (h.counts .b)
  refine ⟨h.queue, ⟨fun _ => rfl, fun _ i => ?_, nofun⟩, fun i => ?_, ?_⟩
  · cases i with
    | a => exact idleA
    | b => exact idleB
  · cases i with
    | a => exact countA
    | b => exact countB
  · exact (h.distinct.setSlot (i := .a) withinA).setSlot (i := .b) withinB

/-- A new record under the CURRENT slot, counted (R22, R86). -/
theorem SlotsLawful.opening {q : List SetRecord} {u : PlanUnit} (h : SlotsLawful false q u) {x : SetRecord}
    (room : q.length < Config.queueDepth) (fresh : x.number ∉ q.map (·.number))
    (closed : ∀ y ∈ q, y.isGathering = false) (current : (u.slot x.slot).isCurrent = true) :
    SlotsLawful false (q ++ [x]) (u.setSlot x.slot ((u.slot x.slot).mapJob Job.countOpened)) := by
  refine h.setSlot (h.queue.append room fresh closed) nofun (PlanSlot.within_mapJob _ _) (fun _ => by simp) ?_ ?_
  · have own : (q ++ [x]).countP (fun y => y.slot = x.slot) = q.countP (fun y => y.slot = x.slot) + 1 := by
      simp [List.countP_append]
    rw [own]
    exact (h.counts x.slot).opened current
  · intro k apart
    rw [List.countP_append, List.countP_cons_of_neg (by simpa using Ne.symm apart), List.countP_nil, Nat.add_zero]

/-- The target slot is STAGED, or it is FREE and no slot is STAGED (R79). -/
theorem PlanUnit.targetSlot_cases {u : PlanUnit} {i : SlotId} (target : u.targetSlot = some i) :
    (u.slot i).isStaged = true ∨ (u.slot i).isFree = true ∧ ∀ k, (u.slot k).isStaged = false := by
  unfold PlanUnit.targetSlot at target
  split at target
  next staged =>
    cases target
    exact .inl (findSlot_eq_some staged)
  next unstaged =>
    refine .inr ⟨findSlot_eq_some target, fun k => ?_⟩
    have none := congrArg Option.isSome unstaged
    rw [stagedSlot_isSome] at none
    simp only [Option.isSome_none, decide_eq_false_iff_not, not_or, Bool.not_eq_true] at none
    cases k with
    | a => exact none.1
    | b => exact none.2

theorem PlanUnit.Distinct.stage {u : PlanUnit} (h : u.Distinct) {i : SlotId} (target : u.targetSlot = some i)
    (j : Job) : (u.setSlot i (.staged j)).Distinct := by
  obtain staged | ⟨-, none⟩ := PlanUnit.targetSlot_cases target
  · exact h.setSlot ⟨fun _ => staged, nofun, nofun⟩
  · cases i with
    | a => exact ⟨fun both => Bool.false_ne_true ((none .b).symm.trans both.2), nofun, nofun⟩
    | b =>
      exact ⟨fun both => Bool.false_ne_true ((none .a).symm.trans both.1), fun both => Bool.false_ne_true both.2,
        fun both => Bool.false_ne_true both.2⟩

/-- A plan placed in its target slot, which holds no record (R79, R81). -/
theorem SlotsLawful.stage {setup : Bool} {q : List SetRecord} {u : PlanUnit} (h : SlotsLawful setup q u) {i : SlotId}
    (target : u.targetSlot = some i) {j : Job} (fresh : j.inQueue = 0) : SlotsLawful setup q (u.setSlot i (.staged j)) := by
  have still : (u.slot i).isCurrent = false ∧ (q.countP fun x => x.slot = i) = 0 := by
    have count := h.counts i
    have kind : (u.slot i).isStaged = true ∨ (u.slot i).isFree = true :=
      (PlanUnit.targetSlot_cases target).imp_right And.left
    cases slot : u.slot i with
    | free =>
      rw [slot] at count
      exact ⟨rfl, count⟩
    | staged j =>
      rw [slot] at count
      exact ⟨rfl, count.1⟩
    | current | draining => simp [slot, PlanSlot.isStaged, PlanSlot.isFree] at kind
  refine ⟨h.queue, ⟨h.slots.empty, fun before k => ?_, fun running => ?_⟩, fun k => ?_, h.distinct.stage target j⟩
  · by_cases same : k = i
    · rw [same, PlanUnit.slot_setSlot_self]
      rfl
    · rw [PlanUnit.slot_setSlot_of_ne u _ same]
      exact h.slots.idle before k
  · obtain ⟨k, runs⟩ := h.slots.current running
    have apart : k ≠ i := fun same => by rw [same, still.1] at runs; cases runs
    exact ⟨k, by rw [PlanUnit.slot_setSlot_of_ne u _ apart]; exact runs⟩
  · by_cases same : k = i
    · rw [same, PlanUnit.slot_setSlot_self]
      exact ⟨still.2, fresh⟩
    · rw [PlanUnit.slot_setSlot_of_ne u _ same]
      exact h.counts k

/-! A changeover: the STAGED slot becomes CURRENT, and what was CURRENT drains or is free (R84, R85). -/

theorem PlanSlot.isStaged_changeover (x : PlanSlot) (n : Nat) : (x.displace.makeCurrent n).isStaged = false := by
  cases x with
  | current =>
    simp only [PlanSlot.displace]
    split <;> rfl
  | free | staged | draining => rfl

theorem PlanSlot.isCurrent_changeover (x : PlanSlot) (n : Nat) :
    (x.displace.makeCurrent n).isCurrent = x.isStaged := by
  cases x with
  | current =>
    simp only [PlanSlot.displace]
    split <;> rfl
  | free | staged | draining => rfl

theorem PlanSlot.isDraining_changeover {x : PlanSlot} {n : Nat} (draining : (x.displace.makeCurrent n).isDraining = true) :
    x.isStaged = false := by
  cases x with
  | staged => cases draining
  | free | current | draining => rfl

theorem PlanUnit.slot_changeover (u : PlanUnit) (i : SlotId) :
    u.changeover.slot i = (u.slot i).displace.makeCurrent u.jobCounter := by
  cases i <;> rfl

theorem SlotsLawful.changeover {setup : Bool} {q : List SetRecord} {u : PlanUnit} (h : SlotsLawful setup q u)
    {i : SlotId} (staged : (u.slot i).isStaged = true) : SlotsLawful false q u.changeover := by
  obtain ⟨oneStaged, -, -⟩ := h.distinct
  refine ⟨h.queue, ⟨nofun, nofun, fun _ => ⟨i, ?_⟩⟩, fun k => ?_, fun both => ?_, fun both => ?_, fun both => ?_⟩
  · rw [PlanUnit.slot_changeover, PlanSlot.isCurrent_changeover]
    exact staged
  · rw [PlanUnit.slot_changeover]
    exact (h.counts k).changeover u.jobCounter
  · exact absurd both.1 (by simp [PlanUnit.changeover, PlanSlot.isStaged_changeover])
  · exact oneStaged (by simpa [PlanUnit.changeover, PlanSlot.isCurrent_changeover] using both)
  · have a := PlanSlot.isDraining_changeover both.1
    have b := PlanSlot.isDraining_changeover both.2
    cases i with
    | a => exact absurd staged (by simp [PlanUnit.slot, a])
    | b => exact absurd staged (by simp [PlanUnit.slot, b])

end Sys2Proof.Machine
end

section
namespace Sys2Proof.Machine

/-! The line states before a job runs are left by a changeover alone (R83, R97). -/

theorem LineControl.isSetup_handCause (l : LineControl) (c : Cause) :
    (l.handCause c).state.isSetup = l.state.isSetup := by
  cases h : l.state <;> simp [LineControl.handCause, h, LineState.isSetup]

theorem LineControl.isSetup_jobComplete (l : LineControl) : l.jobComplete.state.isSetup = l.state.isSetup := by
  cases h : l.state <;> simp [LineControl.jobComplete, h, LineState.isSetup]

theorem LineControl.isSetup_validated (l : LineControl) (valid : Bool) :
    (l.validated valid).state.isSetup = l.state.isSetup := by
  cases h : l.state <;> cases valid <;> simp [LineControl.validated, h, LineState.isSetup]

theorem LineControl.isSetup_changeover {l : LineControl} (configured : l.state ≠ .unconfigured) :
    l.changeover.state.isSetup = false := by
  cases h : l.state with
  | unconfigured => exact absurd h configured
  | idle | run | drain | halt => simp [LineControl.changeover, h, LineState.isSetup]

theorem State.isSetup_settle (s : State) (w : Leaving) (x : SetRecord) :
    (s.settle w x).line.state.isSetup = s.line.state.isSetup :=
  State.settle_keeps_line (P := fun l => l.state.isSetup = s.line.state.isSetup) (fun _ h => h)
    (fun l h => l.isSetup_jobComplete.trans h) (fun l c h => (l.isSetup_handCause c).trans h) w x rfl

/-! The law of queue and slots through each move. -/

theorem State.SlotLaw.releaseLine {s : State} (h : s.SlotLaw) : s.releaseLine.SlotLaw := by
  unfold State.releaseLine
  split
  next release =>
    obtain ⟨drain, empty⟩ := release
    rw [State.slotLaw_iff] at h ⊢
    rw [drain, empty] at h
    show SlotsLawful true s.tracker.queue s.plan.freeCurrent
    rw [empty]
    exact h.release
  next => exact h

/-- The slot of a set that leaves: its outlet counted, its place given up (R86, R88). -/
theorem State.plan_released (s : State) (w : Leaving) (x : SetRecord) :
    (((s.settle w x).removeSet x.number).releaseSlot x.slot).plan =
      s.plan.setSlot x.slot
        ((s.plan.slot x.slot).mapJob fun j =>
          { j with counters := j.counters.count (outletAtLeaving w x) }).release := by
  rw [State.plan_releaseSlot, State.plan_removeSet, State.plan_settle, State.plan_countOutlet,
    PlanUnit.slot_setSlot_self]
  cases x.slot <;> rfl

theorem State.SlotLaw.leave {s : State} (h : s.SlotLaw) (w : Leaving) {x : SetRecord} (here : x ∈ s.tracker.queue) :
    (s.leave w x).SlotLaw := by
  refine State.SlotLaw.releaseLine ?_
  rw [State.slotLaw_iff] at h ⊢
  rw [State.plan_released, State.line_releaseSlot, State.line_removeSet, State.isSetup_settle,
    State.tracker_releaseSlot, State.queue_removeSet, State.tracker_settle]
  exact h.leave here fun _ => rfl

/-- A property that the leaving of a record of the queue keeps is kept by the leaving of all, where their numbers are
distinct (R35). -/
theorem State.purge_keeps_of_mem {Inv : State → Prop}
    (leave : ∀ (s : State), ∀ x ∈ s.tracker.queue, Inv s → Inv (s.leave .purge x)) :
    ∀ (l : List SetRecord) (s : State), (l.map (·.number)).Nodup → (∀ x ∈ l, x ∈ s.tracker.queue) → Inv s →
      Inv (l.foldl (fun t x => t.leave .purge x) s)
  | [], _, _, _, h => h
  | x :: l, s, nodup, within, h => by
    rw [List.map_cons, List.nodup_cons] at nodup
    obtain ⟨apart, nodup⟩ := nodup
    refine State.purge_keeps_of_mem leave l _ nodup (fun y mem => ?_) (leave s x (within x List.mem_cons_self) h)
    rw [State.tracker_leave, List.mem_filter]
    have other : y.number ≠ x.number := fun same => apart (same ▸ List.mem_map_of_mem mem)
    exact ⟨within y (List.mem_cons_of_mem x mem), by simpa using other⟩

theorem State.SlotLaw.nodup {s : State} (h : s.SlotLaw) : (s.tracker.queue.map (·.number)).Nodup :=
  ((State.slotLaw_iff s).1 h).queue.nodup

theorem State.SlotLaw.purge {s : State} (h : s.SlotLaw) :
    (s.tracker.queue.foldl (fun t x => t.leave .purge x) s).SlotLaw :=
  State.purge_keeps_of_mem (fun _ _ here h => h.leave .purge here) _ s h.nodup (fun _ mem => mem) h

theorem PlanUnit.slot_withDie (u : PlanUnit) (d : Option Die) : ({ u with die := d } : PlanUnit).slot = u.slot := by
  funext i
  cases i <;> rfl

/-- With no set gathering, every record of the queue travels. -/
theorem State.closed_of_gatheringSet {s : State} (none : s.gatheringSet = none) :
    ∀ x ∈ s.tracker.queue, x.isGathering = false := fun x mem =>
  Bool.eq_false_iff.2 (List.find?_eq_none.1 none x mem)

theorem SlotsLawful.withSetup {a b : Bool} {q : List SetRecord} {u : PlanUnit} (h : SlotsLawful a q u) (same : b = a) :
    SlotsLawful b q u := same ▸ h

theorem Move.slotLaw {s t : State} (m : Move s t) (law : s.SlotLaw) : t.SlotLaw := by
  have h := (State.slotLaw_iff s).1 law
  cases m with
  | leave w x here => exact law.leave w here
  | purge => exact law.purge
  | release => exact law.releaseLine
  | cause c => exact (State.slotLaw_iff _).2 (h.withSetup (s.line.isSetup_handCause c))
  | complete => exact (State.slotLaw_iff _).2 (h.withSetup s.line.isSetup_jobComplete)
  | configure c | station p e => exact (State.slotLaw_iff _).2 (h.withSetup (s.line.isSetup_validated _))
  | resume ret halt =>
    refine (State.slotLaw_iff _).2 (h.withSetup ?_)
    rw [halt]
    cases ret <;> rfl
  | record n f keeps =>
    refine (State.slotLaw_iff _).2 (h.record fun x mem => ?_)
    split
    next number => exact keeps h.queue.nodup x mem number
    next => exact .refl x
  | opening i run room closed current =>
    have runs : (s.plan.slot i).isCurrent = true := findSlot_eq_some current
    rw [run] at h
    refine (State.slotLaw_iff _).2 (SlotsLawful.withSetup (a := false) ?_ (congrArg LineState.isSetup run))
    exact h.opening (x := newRecord s.tracker.freshNumber i _) room (SetTracker.freshNumber_notMem h.queue.depth)
      (State.closed_of_gatheringSet closed) runs
  | stage i r plan source target => exact (State.slotLaw_iff _).2 (h.stage target rfl)
  | discard i staged => exact (State.slotLaw_iff _).2 (h.discard staged)
  | die d =>
    have slots := s.plan.slot_withDie (some d)
    exact (State.slotLaw_iff _).2 ⟨h.queue, slots ▸ h.slots, fun i => by rw [slots]; exact h.counts i, h.distinct⟩
  | changeover i configured staged =>
    exact (State.slotLaw_iff _).2
      ((h.changeover (findSlot_eq_some staged)).withSetup (LineControl.isSetup_changeover configured))
  | _ => exact law

theorem slotLaw_afterReset (pair : PhasePair) (store : RecipeStore) (pending : List Instr) :
    (State.afterReset pair store pending).SlotLaw := by
  refine (State.slotLaw_iff _).2 ⟨⟨Nat.zero_le _, List.nodup_nil, .nil⟩, ⟨fun _ => rfl, fun _ i => ?_, nofun⟩,
    fun i => ?_, nofun, nofun, nofun⟩
  · cases i <;> rfl
  · cases i <;> rfl

/-- Settles O58: a reset establishes the law of queue and slots and every move keeps it. -/
theorem stepKeepsQueueAndSlots : Obligations.StepKeepsQueueAndSlots := by
  unfold Obligations.StepKeepsQueueAndSlots
  exact fun s t => step_keeps (fun _ _ _ _ h => h) slotLaw_afterReset Move.slotLaw

/-! ### The counter law and the quota law (R86, R87) -/

/-- A property of every slot's job. -/
def PlanUnit.EveryJob (P : Job → Prop) (u : PlanUnit) : Prop := ∀ i j, (u.slot i).job? = some j → P j

/-- A law of jobs that holds as a job is staged and is kept as a set opens and leaves and as the job becomes CURRENT. -/
structure JobLaw (P : Job → Prop) : Prop where
  staged : ∀ r plan source, r.target ≤ 999999 → P (stagedJob r plan source)
  opened : ∀ j : Job, j.quotaAllows = true → P j → P j.countOpened
  left : ∀ (j : Job) o, 0 < j.inQueue → P j → P { j with inQueue := j.inQueue - 1, counters := j.counters.count o }
  current : ∀ j : Job, P j → P { j with inQueue := 0, counters := {} }

theorem PlanUnit.EveryJob.setSlot {P : Job → Prop} {u : PlanUnit} (h : u.EveryJob P) {i : SlotId} {y : PlanSlot}
    (own : ∀ j, y.job? = some j → P j) : (u.setSlot i y).EveryJob P := by
  intro k j held
  by_cases same : k = i
  · rw [same, PlanUnit.slot_setSlot_self] at held
    exact own j held
  · rw [PlanUnit.slot_setSlot_of_ne u y same] at held
    exact h k j held

theorem PlanSlot.job?_release {x : PlanSlot} {j : Job} (held : x.release.job? = some j) :
    ∃ i, x.job? = some i ∧ j = { i with inQueue := i.inQueue - 1 } := by
  cases x with
  | free => cases held
  | staged i | current n i =>
    cases held
    exact ⟨i, rfl, rfl⟩
  | draining n i =>
    simp only [PlanSlot.release] at held
    split at held
    · cases held
    · cases held
      exact ⟨i, rfl, rfl⟩

theorem PlanSlot.job?_freeIfCurrent {x : PlanSlot} {j : Job} (held : x.freeIfCurrent.job? = some j) :
    x.job? = some j := by
  unfold PlanSlot.freeIfCurrent at held
  split at held
  · cases held
  · exact held

theorem PlanSlot.job?_changeover {x : PlanSlot} {n : Nat} {j : Job}
    (held : (x.displace.makeCurrent n).job? = some j) :
    x.job? = some j ∨ ∃ i, x.job? = some i ∧ j = { i with inQueue := 0, counters := {} } := by
  cases x with
  | free => cases held
  | staged i =>
    cases held
    exact .inr ⟨i, rfl, rfl⟩
  | draining m i => exact .inl held
  | current m i =>
    simp only [PlanSlot.displace] at held
    split at held
    · exact .inl held
    · cases held

/-- A slot with a record counts it (R86). -/
theorem PlanSlot.Counts.pos {x : PlanSlot} {n : Nat} (h : x.Counts n) (some_record : 0 < n) {j : Job}
    (held : x.job? = some j) : 0 < j.inQueue := by
  cases x with
  | free => cases held
  | staged i => exact absurd h.1 (Nat.ne_of_gt some_record)
  | current m i =>
    cases held
    have count : j.inQueue = n := h
    omega
  | draining m i =>
    cases held
    exact h.2

theorem PlanUnit.EveryJob.freeCurrent {P : Job → Prop} {u : PlanUnit} (h : u.EveryJob P) : u.freeCurrent.EveryJob P := by
  intro i j held
  cases i with
  | a => exact h .a j (PlanSlot.job?_freeIfCurrent held)
  | b => exact h .b j (PlanSlot.job?_freeIfCurrent held)

theorem PlanUnit.EveryJob.releaseLine {P : Job → Prop} {s : State} (h : s.plan.EveryJob P) :
    s.releaseLine.plan.EveryJob P := by
  unfold State.releaseLine
  split
  · exact h.freeCurrent
  · exact h

theorem JobLaw.leave {P : Job → Prop} (law : JobLaw P) {s : State} (slots : s.SlotLaw) (h : s.plan.EveryJob P)
    (w : Leaving) {x : SetRecord} (here : x ∈ s.tracker.queue) : (s.leave w x).plan.EveryJob P := by
  refine PlanUnit.EveryJob.releaseLine ?_
  rw [State.plan_released]
  refine h.setSlot fun j held => ?_
  obtain ⟨i, counted, rfl⟩ := PlanSlot.job?_release held
  rw [PlanSlot.job?_mapJob] at counted
  obtain ⟨old, before, rfl⟩ := Option.map_eq_some_iff.1 counted
  have some_record : 0 < s.tracker.queue.countP fun y => y.slot = x.slot :=
    List.countP_pos_iff.2 ⟨x, here, by simp⟩
  exact law.left old _ ((((State.slotLaw_iff s).1 slots).counts x.slot).pos some_record before) (h x.slot old before)

theorem JobLaw.move {P : Job → Prop} (law : JobLaw P) {s t : State} (m : Move s t) (slots : s.SlotLaw)
    (h : s.plan.EveryJob P) : t.plan.EveryJob P := by
  cases m with
  | leave w x here => exact law.leave slots h w here
  | purge =>
    exact (State.purge_keeps_of_mem (Inv := fun s => s.SlotLaw ∧ s.plan.EveryJob P)
      (fun _ _ here h => ⟨h.1.leave .purge here, law.leave h.1 h.2 .purge here⟩) _ s slots.nodup (fun _ mem => mem)
      ⟨slots, h⟩).2
  | release => exact h.releaseLine
  | opening i run room closed current quota =>
    refine h.setSlot fun j held => ?_
    rw [PlanSlot.job?_mapJob] at held
    obtain ⟨old, before, rfl⟩ := Option.map_eq_some_iff.1 held
    rw [before] at quota
    exact law.opened old quota (h i old before)
  | stage i r plan source target fits =>
    refine h.setSlot fun j held => ?_
    cases held
    exact law.staged r plan source fits
  | discard i => exact h.setSlot nofun
  | die d =>
    intro i j held
    rw [PlanUnit.slot_withDie] at held
    exact h i j held
  | changeover =>
    intro i j held
    rw [PlanUnit.slot_changeover] at held
    obtain kept | ⟨old, before, rfl⟩ := PlanSlot.job?_changeover held
    · exact h i j kept
    · exact law.current old (h i old before)
  | _ => exact h

/-- A law of jobs is kept by every step, with the law of queue and slots. -/
theorem JobLaw.step {P : Job → Prop} (law : JobLaw P) {s t : State} (slots : s.SlotLaw) (h : s.plan.EveryJob P)
    (stepped : step s = .next t) : t.plan.EveryJob P := by
  refine (step_keeps (Inv := fun s => s.SlotLaw ∧ s.plan.EveryJob P) (fun _ _ _ _ h => h)
    (fun pair store pending => ⟨slotLaw_afterReset pair store pending, fun i j held => ?_⟩)
    (fun m h => ⟨m.slotLaw h.1, law.move m h.1 h.2⟩) ⟨slots, h⟩ stepped).2
  cases i <;> cases held

/-! The two laws (R86, R87). -/

theorem everyJob_iff (P : Job → Bool) (u : PlanUnit) :
    u.EveryJob (fun j => P j = true) ↔ ∀ i, ((u.slot i).job?.map P).getD true = true := by
  refine forall_congr' fun i => ?_
  cases (u.slot i).job? <;> simp

theorem Job.countersBalance_iff (j : Job) : j.countersBalance = true ↔
    j.counters.opened = j.counters.accepted + j.counters.rejected + j.counters.reworked + j.counters.unresolved +
      j.counters.withdrawn + BitVec.ofNat 32 j.inQueue :=
  beq_iff_eq

/-- Every way of leaving moves one set from the queue to one of the five counters (R86). -/
theorem jobLaw_countersBalance : JobLaw fun j => j.countersBalance = true where
  staged _ _ _ _ := rfl
  opened j _ h := by
    rw [Job.countersBalance_iff] at h ⊢
    simp only [Job.countOpened, h, BitVec.ofNat_add]
    ac_rfl
  left j o some_set h := by
    rw [Job.countersBalance_iff] at h ⊢
    obtain ⟨n, count⟩ := Nat.exists_eq_add_of_lt some_set
    rw [count, Nat.zero_add] at h ⊢
    rw [BitVec.ofNat_add] at h
    cases o <;> simp only [SlotCounters.count, h, Nat.add_sub_cancel] <;> ac_rfl
  current _ _ := rfl

theorem Job.withinQuota_iff (j : Job) : j.withinQuota = true ↔
    j.target ≤ 999999 ∧ (j.target = 0 ∨ j.counters.accepted.toNat + j.inQueue ≤ j.target) := by
  simp [Job.withinQuota]

theorem Job.quotaAllows_iff (j : Job) : j.quotaAllows = true ↔
    j.target = 0 ∨ j.counters.accepted.toNat + j.inQueue < j.target := by
  simp [Job.quotaAllows]

theorem SlotCounters.accepted_count (c : SlotCounters) (o : Outlet) :
    (c.count o).accepted.toNat ≤ c.accepted.toNat + 1 := by
  cases o with
  | accept =>
    show (c.accepted + 1).toNat ≤ _
    rw [BitVec.toNat_add]
    exact Nat.mod_le _ _
  | reject | rework | unresolved | abandoned | purged => exact Nat.le_succ _

/-- A set that leaves raises the accepted count by no more than it lowers the count of sets in the queue (R87). -/
theorem jobLaw_withinQuota : JobLaw fun j => j.withinQuota = true where
  staged r plan source fits := (Job.withinQuota_iff _).2 ⟨fits, .inr (Nat.zero_le _)⟩
  opened j allowed h := by
    rw [Job.withinQuota_iff] at h ⊢
    rw [Job.quotaAllows_iff] at allowed
    exact ⟨h.1, allowed⟩
  left j o some_set h := by
    rw [Job.withinQuota_iff] at h ⊢
    refine ⟨h.1, h.2.imp_right fun within => ?_⟩
    have raised := j.counters.accepted_count o
    show (j.counters.count o).accepted.toNat + (j.inQueue - 1) ≤ j.target
    omega
  current j h := (Job.withinQuota_iff _).2 ⟨((Job.withinQuota_iff j).1 h).1, .inr (Nat.zero_le _)⟩

/-- Settles O59: both are laws of jobs. -/
theorem stepKeepsCountersAndQuota : Obligations.StepKeepsCountersAndQuota := by
  unfold Obligations.StepKeepsCountersAndQuota
  refine ⟨fun s t slots h stepped => ?_, fun s t slots h stepped => ?_⟩
  · exact (everyJob_iff _ _).1 (jobLaw_countersBalance.step slots ((everyJob_iff _ _).2 h) stepped)
  · exact (everyJob_iff _ _).1 (jobLaw_withinQuota.step slots ((everyJob_iff _ _).2 h) stepped)

end Sys2Proof.Machine
end

/-! ### Steps, reset and loss of supply -/

section
namespace Sys2Proof.Machine

/-- Settles O1, by the two cases of the queue of commands. -/
theorem stepRunsFrontCommand : Obligations.StepRunsFrontCommand := by
  unfold Obligations.StepRunsFrontCommand
  refine ⟨fun c rest s front => ?_, fun s idle => ?_⟩
  · simp only [step, front]
  · simp only [step, idle]

/-- A slot of an interrupted store is CORRUPT if it was being written and as it was if not (R155, R161). -/
theorem RecipeStore.slots_interrupted (r : RecipeStore) (i : Fin 16) :
    r.interrupted.slots[i] = if r.cycle.map (·.slot) = some i then .corrupt else r.slots[i] := by
  cases cycle : r.cycle with
  | none => simp [RecipeStore.interrupted, cycle]
  | some c => simp [RecipeStore.interrupted, cycle, Vector.getElem_set, Fin.ext_iff]

/-- Settles O3: the reset values field by field, and the store as `RecipeStore.slots_interrupted` has it. -/
theorem resetLeavesResetValues : Obligations.ResetLeavesResetValues := by
  unfold Obligations.ResetLeavesResetValues
  refine ⟨fun pair s => ⟨_, rfl, rfl, rfl, rfl, rfl, fun p => ?_, rfl, fun p => ?_, rfl, rfl, rfl, fun p => ?_, rfl, rfl,
    fun i => s.store.slots_interrupted i, rfl⟩, rfl, rfl, fun i => ?_⟩
  · cases p <;> rfl
  · cases p <;> rfl
  · cases p with
    | supervisor => rfl
    | station q => cases q <;> rfl
  · exact Vector.getElem_replicate _

/-- Settles O4: the store as `RecipeStore.slots_interrupted` has it, everything else as after a reset. -/
theorem supplyLossInterruptsTheStore : Obligations.SupplyLossInterruptsTheStore := by
  unfold Obligations.SupplyLossInterruptsTheStore
  exact fun s => ⟨_, rfl, fun i => s.store.slots_interrupted i, rfl, rfl, rfl, rfl⟩

/-- Settles O56: the laws of queue, slots and history as the steps' proofs establish them at a reset, the others by their
values. -/
theorem resetStateIsLawful : Obligations.ResetStateIsLawful := by
  unfold Obligations.ResetStateIsLawful State.Lawful
  refine ⟨fun p => ?_, slotLaw_afterReset _ _ _, fun i => ?_, fun i => ?_, VerdictUnit.consecutive_reset,
    ⟨Nat.zero_le _, id⟩, absurd rfl, ⟨fun p => ?_, Nat.zero_lt_one, .inl rfl⟩, nofun, rfl, rfl, fun _ => rfl⟩
  · cases p with
    | supervisor => decide
    | station q => cases q <;> decide
  · cases i <;> rfl
  · cases i <;> rfl
  · cases p <;> decide

end Sys2Proof.Machine
end

/-! ### The encoder (R1 to R6) -/

section
namespace Sys2Proof.Machine

theorem followsForward_iff (p q : PhasePair) : FollowsForward p q ↔ q = nextPair p := by
  obtain ⟨a, b⟩ := p
  obtain ⟨c, d⟩ := q
  revert a b c d
  unfold FollowsForward
  decide

/-- The four pairs form one cycle, so that a pair is not its own successor and two are not each other's. -/
theorem nextPair_ne (p : PhasePair) : nextPair p ≠ p ∧ nextPair (nextPair p) ≠ p := by
  obtain ⟨a, b⟩ := p
  revert a b
  decide

/-- The state in which a pair has become the reference (R1). -/
def State.seen (s : State) (pair : PhasePair) : State := { s with position := { s.position with reference := pair } }

/-- A quadrature edge makes the pair the reference and reaches the divider (R1). -/
theorem State.newPair_edge {s : State} {pair : PhasePair} {dir : Direction}
    (edge : IsEdge s.position.reference pair dir) :
    s.newPair pair = (s.seen pair).dividerEdge dir := by
  cases dir with
  | forward =>
    have next := (followsForward_iff _ _).1 edge
    have changed : pair ≠ s.position.reference := next ▸ (nextPair_ne _).1
    simp only [State.newPair, State.seen, if_neg changed, if_pos next]
  | reverse =>
    have next : s.position.reference = nextPair pair := (followsForward_iff _ _).1 edge
    have changed : pair ≠ s.position.reference := next ▸ (nextPair_ne pair).1.symm
    have backward : pair ≠ nextPair s.position.reference := next ▸ (nextPair_ne pair).2.symm
    simp only [State.newPair, State.seen, if_neg changed, if_neg backward, if_pos next]

/-- The tally that an edge continues: cleared by an edge against its direction (R2). -/
def PositionCounter.kept (c : PositionCounter) (dir : Direction) : Nat :=
  if c.tallyDirection = some dir then c.tally else 0

theorem State.dividerEdge_below {s : State} {dir : Direction}
    (below : s.position.kept dir + 1 < s.tracker.lineConfig.divider) :
    s.dividerEdge dir = { s with
      position := { s.position with tally := s.position.kept dir + 1, tallyDirection := some dir } } := by
  have short : ¬s.tracker.lineConfig.divider ≤ s.position.kept dir + 1 := Nat.not_le_of_lt below
  unfold PositionCounter.kept at *
  simp only [State.dividerEdge, if_neg short]

theorem State.dividerEdge_full {s : State} {dir : Direction}
    (full : s.tracker.lineConfig.divider ≤ s.position.kept dir + 1) :
    s.dividerEdge dir =
      let t : State := { s with position := { s.position with tally := 0, tallyDirection := some dir } }
      match dir with
      | .forward => t.forwardCount
      | .reverse => t.reverseCount := by
  unfold PositionCounter.kept at full
  cases dir <;> simp only [State.dividerEdge, if_pos full]

/-- Settles O5: the edge reaches the divider, which only tallies it. -/
theorem edgeBelowTheDividerIsTallied : Obligations.EdgeBelowTheDividerIsTallied := by
  unfold Obligations.EdgeBelowTheDividerIsTallied
  rintro s pair dir _ edge rfl below
  show Host.Outcome.next (s.newPair pair).driveAttn = _
  rw [State.newPair_edge edge, State.dividerEdge_below (s := s.seen pair) below]
  rfl

theorem PositionCounter.reverseDepth_eq_zero (c : PositionCounter) : c.reverseDepth = 0 ↔ c.raw = c.tracking := by
  unfold PositionCounter.reverseDepth
  constructor
  · intro zero
    bv_omega
  · intro same
    rw [same, BitVec.sub_self]
    rfl

theorem State.forwardCount_atT {s : State} (at_t : s.position.raw = s.position.tracking) :
    s.forwardCount = ({ s with position :=
      { s.position with raw := s.position.raw + 1, tracking := s.position.raw + 1 } } : State).offerCrossings
        s.position.tracking (s.position.raw + 1) := by
  simp only [State.forwardCount, if_pos (s.position.reverseDepth_eq_zero.2 at_t)]

theorem State.forwardCount_behindT {s : State} (behind : s.position.raw ≠ s.position.tracking) :
    s.forwardCount = { s with position :=
      { s.position with
        raw := s.position.raw + 1
        armed := s.position.armed || decide (s.position.raw + 1 = s.position.tracking) } } := by
  have arms : (s.position.tracking == s.position.raw + 1) = decide (s.position.raw + 1 = s.position.tracking) := by
    rw [Bool.beq_eq_decide_eq]
    exact decide_eq_decide.2 eq_comm
  simp only [State.forwardCount, if_neg (mt s.position.reverseDepth_eq_zero.1 behind), arms]

/-- Settles O6: the edge fills the divider, and the forward count has its two cases. -/
theorem forwardCountMovesPositions : Obligations.ForwardCountMovesPositions := by
  unfold Obligations.ForwardCountMovesPositions
  rintro s pair _ edge rfl full
  let t : State := { s with position :=
    { s.position with reference := pair, tally := 0, tallyDirection := some .forward } }
  have counted : exec (.quadratureEdge pair) s = .next t.forwardCount.driveAttn := by
    show Host.Outcome.next (s.newPair pair).driveAttn = _
    rw [State.newPair_edge edge, State.dividerEdge_full (s := s.seen pair) full]
    rfl
  rw [counted]
  refine ⟨fun at_t => ?_, fun behind => ?_⟩
  · rw [State.forwardCount_atT (s := t) at_t]
  · rw [State.forwardCount_behindT (s := t) behind]

theorem State.reverseCount_over {s : State} (armed : s.position.armed = true)
    (above : s.tracker.lineConfig.reverseLimit < (s.position.tracking - (s.position.raw - 1)).toNat) :
    s.reverseCount = ({ s with position :=
      { s.position with raw := s.position.raw - 1, armed := false } } : State).handCause .reverse :=
  if_pos ⟨armed, above⟩

theorem State.reverseCount_within {s : State} (within : ¬(s.position.armed = true ∧
      s.tracker.lineConfig.reverseLimit < (s.position.tracking - (s.position.raw - 1)).toNat)) :
    s.reverseCount = { s with position := { s.position with raw := s.position.raw - 1 } } :=
  if_neg within

/-- Settles O7: the edge fills the divider, and the reverse count has its two cases. -/
theorem reverseCountMayRaiseReverse : Obligations.ReverseCountMayRaiseReverse := by
  unfold Obligations.ReverseCountMayRaiseReverse
  rintro s pair _ edge rfl full
  let t : State := { s with position :=
    { s.position with reference := pair, tally := 0, tallyDirection := some .reverse } }
  have counted : exec (.quadratureEdge pair) s = .next t.reverseCount.driveAttn := by
    show Host.Outcome.next (s.newPair pair).driveAttn = _
    rw [State.newPair_edge edge, State.dividerEdge_full (s := s.seen pair) full]
    rfl
  rw [counted]
  refine ⟨fun ⟨armed, above⟩ => ?_, fun within => ?_⟩
  · rw [State.reverseCount_over (s := t) armed above]
  · rw [State.reverseCount_within (s := t) within]

/-- A change of both phases follows the reference in neither direction. -/
theorem newPair_illegal {s : State} {pair : PhasePair}
    (both : pair.a ≠ s.position.reference.a ∧ pair.b ≠ s.position.reference.b) :
    s.newPair pair = { s with position := { s.position with reference := pair, encoderLatch := true } } := by
  have apart : ∀ p q : PhasePair, q.a ≠ p.a ∧ q.b ≠ p.b → q ≠ p ∧ q ≠ nextPair p ∧ p ≠ nextPair q := by
    rintro ⟨a, b⟩ ⟨c, d⟩
    revert a b c d
    decide
  obtain ⟨changed, forward, reverse⟩ := apart _ _ both
  simp only [State.newPair, if_neg changed, if_neg forward, if_neg reverse]

/-- Settles O8: the last and the first branch of the comparison with the reference. -/
theorem illegalTransitionSetsEncoder : Obligations.IllegalTransitionSetsEncoder := by
  unfold Obligations.IllegalTransitionSetsEncoder
  intro s pair
  refine ⟨fun both => ?_, fun same => ?_⟩
  · show Host.Outcome.next (s.newPair pair).driveAttn = _
    rw [newPair_illegal both]
  · show Host.Outcome.next (s.newPair pair).driveAttn = _
    rw [show s.newPair pair = s from if_pos same]

end Sys2Proof.Machine
end

/-! ### Halt causes (R146, R147) -/

section
namespace Sys2Proof.Machine

theorem State.handCause_setup {s : State} (setup : s.line.state = .unconfigured ∨ s.line.state = .idle) (c : Cause) :
    s.handCause c = s := by
  obtain state | state := setup <;> simp only [State.handCause, LineControl.handCause, state]

/-- Settles O9: the cause in each line state, and the cause set with one name more. -/
theorem haltCauseIsHandedOver : Obligations.HaltCauseIsHandedOver := by
  unfold Obligations.HaltCauseIsHandedOver
  refine fun s c => ⟨fun run => State.handCause_run run c, fun drain => State.handCause_drain drain c,
    fun ret halt => State.handCause_halt halt c, fun setup => State.handCause_setup setup c, fun d => ?_⟩
  by_cases same : d = c
  · rw [same, CauseSet.has_add_self, decide_eq_true rfl, Bool.or_true]
  · rw [CauseSet.has_add_of_ne _ same, decide_eq_false same, Bool.or_false]

end Sys2Proof.Machine
end

/-! ### Crossings (R11, R12, R34, R100 to R102) -/

section
namespace Sys2Proof.Machine

theorem State.progressOf_found {s : State} {n : Nat} {x : SetRecord} (found : s.findSet n = some x) (r : StationRole) :
    s.progressOf n r = x.progress.get r := by
  simp only [State.progressOf, found, Option.bind_some]

/-- A miss crossing meets the entries that the station has not seen (R101). -/
theorem Progress.any_unseen_iff (q : Option Progress) :
    q.any Progress.unseen = true ↔ q = some .waiting ∨ q = some .passing := by
  cases q with
  | none => simp
  | some q => cases q <;> simp [Progress.unseen]

theorem State.missCrossing_of_unseen {s : State} {p : StationPort} {r : StationRole} {n : Nat}
    (unseen : s.progressOf n r = some .waiting ∨ s.progressOf n r = some .passing) :
    s.missCrossing p r n =
      let t := (s.updateSet n fun x => (x.setProgress r .missed).addCheck .missed).raiseMiss p
      if r = .gate then t.handCause .gateMissed else t :=
  if_pos ((Progress.any_unseen_iff _).2 unseen)

theorem State.missCrossing_of_seen {s : State} {p : StationPort} {r : StationRole} {n : Nat}
    (seen : ¬(s.progressOf n r = some .waiting ∨ s.progressOf n r = some .passing)) : s.missCrossing p r n = s :=
  if_neg (mt (Progress.any_unseen_iff _).1 seen)

theorem crossed_iff (old new boundary : Nat) : crossed old new boundary = true ↔ old ≤ boundary ∧ boundary < new := by
  simp [crossed]

/-- The boundaries of a station whose port holds a station role (R11, R12). -/
theorem State.stationCrossings_staffed {s : State} {p : StationPort} {r : StationRole}
    (staffed : (s.station p).role = .station r) (n old new : Nat) :
    s.stationCrossings n old new p =
      let t := if old ≤ (s.station p).arrive + (s.station p).tol ∧ (s.station p).arrive + (s.station p).tol < new then
        s.missCrossing p r n else s
      if old ≤ (s.station p).close ∧ (s.station p).close < new then t.closeCrossing r n else t := by
  simp only [State.stationCrossings, staffed, Role.stationRole, crossed_iff]

theorem State.stationCrossings_unstaffed {s : State} {p : StationPort}
    (unstaffed : (s.station p).role = .none ∨ (s.station p).role = .collator) (n old new : Nat) :
    s.stationCrossings n old new p = s := by
  obtain role | role := unstaffed <;> simp only [State.stationCrossings, role, Role.stationRole]

/-- Settles O10: the two crossings by the entry they meet, and the boundaries that bring them about. -/
theorem stationBoundariesAreCrossed : Obligations.StationBoundariesAreCrossed := by
  unfold Obligations.StationBoundariesAreCrossed
  refine ⟨fun s n p x r found => ?_, fun s n old new p r staffed => State.stationCrossings_staffed staffed n old new,
    fun s n old new p unstaffed => State.stationCrossings_unstaffed unstaffed n old new⟩
  rw [← State.progressOf_found found r]
  refine ⟨fun unseen => ?_, fun ⟨waiting, passing⟩ => ?_, fun arrived => if_pos arrived, fun other => if_neg other⟩
  · rw [State.missCrossing_of_unseen unseen]
    rfl
  · exact State.missCrossing_of_seen (not_or.2 ⟨waiting, passing⟩)

/-- The crossings of one set: its stations', then its exit at the gate's Z (R12, R34). -/
theorem State.crossSet_eq (s : State) (n old new : Nat) :
    s.crossSet n old new =
      let t := stationPorts.foldl (fun u p => u.stationCrossings n old new p) s
      if ∃ z, exitBoundary s.tracker.stations = some z ∧ old ≤ z ∧ z < new then t.leaveNumber .exit n else t := by
  have table := (State.sameOutside_foldl (fun t p => t.stationCrossings n old new p)
    (fun t p => t.sameOutside_stationCrossings n old new p) stationPorts s).stations
  have exits : (exitBoundary s.tracker.stations).any (crossed old new) = true ↔
      ∃ z, exitBoundary s.tracker.stations = some z ∧ old ≤ z ∧ z < new := by
    cases exitBoundary s.tracker.stations with
    | none => simp only [Option.any_none, Bool.false_eq_true, reduceCtorEq, false_and, exists_false]
    | some z => simp only [Option.any_some, crossed_iff, Option.some.injEq, exists_eq_left']
  simp only [State.crossSet, table, exits]

theorem State.crossAtStep_gathering {s : State} {n : Nat} {x : SetRecord} (found : s.findSet n = some x)
    (gathering : x.state = .gathering) (before after : Position) : State.crossAtStep before after s n = s := by
  simp only [State.crossAtStep, found, Option.bind_some, SetRecord.entry?, gathering]

theorem State.crossAtStep_travelling {s : State} {n : Nat} {x : SetRecord} (found : s.findSet n = some x)
    {e : Position} (travelling : x.state = .travelling e) (before after : Position) :
    State.crossAtStep before after s n = s.crossSet n (before - e).toNat (after - e).toNat := by
  simp only [State.crossAtStep, found, Option.bind_some, SetRecord.entry?, travelling]

theorem SetRecord.distance_travelling {x : SetRecord} {e : Position} (travelling : x.state = .travelling e)
    (t : Position) : x.distance t = (t - e).toNat := by
  simp only [SetRecord.distance, travelling]

/-- Settles O11: a step of T is offered to each set, a travelling set crosses by its distances, and those differ by one. -/
theorem exitCrossingIsTakenLast : Obligations.ExitCrossingIsTakenLast := by
  unfold Obligations.ExitCrossingIsTakenLast
  refine ⟨fun _ _ _ => rfl, fun s n x before after found => ⟨fun gathering => ?_, fun e travelling => ?_⟩,
    fun x e t travelling => ⟨SetRecord.distance_travelling travelling t, fun room => ?_⟩⟩
  · exact State.crossAtStep_gathering found gathering before after
  · rw [State.crossAtStep_travelling found travelling, State.crossSet_eq]
    rfl
  · rw [SetRecord.distance_travelling travelling] at room ⊢
    rw [SetRecord.distance_travelling travelling]
    bv_omega

end Sys2Proof.Machine
end

/-! ### Leaving the queue (R33, R86, R88, R91, R133 to R138) -/

section
namespace Sys2Proof.Machine

/-- The reject limit is reached by an outlet other than ACCEPT that the gate took (R135). -/
def ReachesLimit (s : State) (o : Outlet) : Prop :=
  (o = .reject ∨ o = .rework) ∧ 0 < s.tracker.lineConfig.rejectLimit ∧
    min (s.verdict.rejectRun + 1) 255 = s.tracker.lineConfig.rejectLimit

theorem State.line_countRun_of_reached {s : State} {o : Outlet} (reached : ReachesLimit s o) :
    (s.countRun o).line = s.line.handCause .rejectRun := by
  obtain ⟨rfl | rfl, limit⟩ := reached <;> simp only [State.countRun, if_pos limit] <;> rfl

theorem State.line_countRun_of_not_reached {s : State} {o : Outlet} (other : ¬ReachesLimit s o) :
    (s.countRun o).line = s.line := by
  cases o with
  | accept | unresolved | abandoned | purged => rfl
  | reject =>
    simp only [State.countRun]
    rw [if_neg fun limit => other ⟨.inl rfl, limit⟩]
  | rework =>
    simp only [State.countRun]
    rw [if_neg fun limit => other ⟨.inr rfl, limit⟩]

theorem State.reachesLimit_countOutlet (s : State) (i : SlotId) (o o' : Outlet) :
    ReachesLimit (s.countOutlet i o) o' ↔ ReachesLimit s o' := by
  unfold ReachesLimit
  rw [State.tracker_countOutlet, State.verdict_countOutlet]

/-- An outlet that is not ACCEPT completes no job (R91). -/
theorem State.countOutlet_not_accept {s : State} {i : SlotId} {o : Outlet} (other : o ≠ .accept) :
    s.countOutlet i o =
      s.setSlot i ((s.plan.slot i).mapJob fun j => { j with counters := j.counters.count o }) :=
  if_neg fun accepted => other accepted.1

theorem State.line_settle_of_reached {s : State} {w : Leaving} {x : SetRecord}
    (reached : ReachesLimit s (outletAtLeaving w x)) : (s.settle w x).line = s.line.handCause .rejectRun := by
  have other : outletAtLeaving w x ≠ .accept := by
    obtain o | o := reached.1 <;> simp [o]
  show ((s.countOutlet x.slot (outletAtLeaving w x)).countRun (outletAtLeaving w x)).line = _
  rw [State.line_countRun_of_reached ((s.reachesLimit_countOutlet _ _ _).2 reached), State.countOutlet_not_accept other]
  rfl

/-- After a halt cause the line does not drain, so no release follows (R88, R146). -/
theorem LineControl.handCause_ne_drain (l : LineControl) (c : Cause) : (l.handCause c).state ≠ .drain := by
  cases h : l.state <;> simp [LineControl.handCause, h]

theorem State.line_leave_of_reached {s : State} {w : Leaving} {x : SetRecord}
    (reached : ReachesLimit s (outletAtLeaving w x)) : (s.leave w x).line = s.line.handCause .rejectRun := by
  have settled : (((s.settle w x).removeSet x.number).releaseSlot x.slot).line = s.line.handCause .rejectRun :=
    State.line_settle_of_reached reached
  have halted : (((s.settle w x).removeSet x.number).releaseSlot x.slot).line.state ≠ .drain := by
    rw [settled]
    exact LineControl.handCause_ne_drain _ _
  rw [State.leave, State.releaseLine_of_ne_drain halted, settled]

theorem runAfter_eq (limit run : Nat) (o : Outlet) :
    runAfter limit run o =
      if o = .accept then 0
      else if o = .reject ∨ o = .rework then
        (if 0 < limit ∧ min (run + 1) 255 = limit then 0 else min (run + 1) 255)
      else run := by
  cases o <;> rfl

/-! The outlet at leaving (R133). -/

theorem outletAtLeaving_done {x : SetRecord} {d : Option GateOutlet} (done : x.progress.gate = some (.done d))
    {o : GateOutlet} (taken : x.taken = some o) : outletAtLeaving .exit x = outletOfGate o := by
  simp only [outletAtLeaving, done, taken]

theorem outletAtLeaving_unresolved {x : SetRecord}
    (missed : x.progress.gate = some .unconfirmed ∨ x.progress.gate = some .missed) :
    outletAtLeaving .exit x = .unresolved := by
  obtain gate | gate := missed <;> simp only [outletAtLeaving, gate]

/-- Settles O12: tracker, verdict unit and line after a leaving, and the outlet by the way of leaving. -/
theorem leavingSetIsSettled : Obligations.LeavingSetIsSettled := by
  unfold Obligations.LeavingSetIsSettled
  refine ⟨fun s w x => ?_, fun x => ⟨rfl, rfl, fun d done => ⟨fun taken => ?_, fun taken => ?_, fun taken => ?_⟩, ?_⟩⟩
  · have outside := s.sameOutside_leave w x
    refine ⟨s.tracker_leave w x, ?_, fun outlet limit run => ?_, outside.position, outside.store, outside.ports,
      outside.pending⟩
    · rw [State.verdict_leave, runAfter_eq]
      rfl
    · exact State.line_leave_of_reached ⟨outlet, limit, run⟩
  · rw [outletAtLeaving_done done taken]
    rfl
  · rw [outletAtLeaving_done done taken]
    rfl
  · rw [outletAtLeaving_done done taken]
    rfl
  · exact outletAtLeaving_unresolved

/-! A counted outlet in a slot that sets can belong to (R86, R91). -/

theorem Job.targetReached_iff (j : Job) (o : Outlet) :
    o = .accept ∧ ({ j with counters := j.counters.count o } : Job).targetReached = true ↔
      o = .accept ∧ 0 < j.target ∧ (j.counters.accepted + 1).toNat = j.target := by
  refine and_congr_right fun accepted => ?_
  subst accepted
  simp [Job.targetReached, SlotCounters.count]

/-- The outlet counted, without or with the completion of the job. -/
theorem State.countOutlet_of_job {s : State} {i : SlotId} {j : Job} (held : (s.plan.slot i).job? = some j) (o : Outlet) :
    s.countOutlet i o =
      let x := (s.plan.slot i).mapJob fun j => { j with counters := j.counters.count o }
      if o = .accept ∧ 0 < j.target ∧ (j.counters.accepted + 1).toNat = j.target then (s.setSlot i x).raiseJobDone x
      else s.setSlot i x := by
  have reads : (o = .accept ∧ ((((s.plan.slot i).mapJob fun j => { j with counters := j.counters.count o }).job?.map
      Job.targetReached).getD false) = true) ↔
        o = .accept ∧ 0 < j.target ∧ (j.counters.accepted + 1).toNat = j.target := by
    rw [PlanSlot.job?_mapJob, held, ← Job.targetReached_iff]
    rfl
  simp only [State.countOutlet, reads]

/-- Settles O13: the six counters, the counting in a CURRENT and in a DRAINING slot, and what settling hands on. -/
theorem outletIsCountedIntoTheSlot : Obligations.OutletIsCountedIntoTheSlot := by
  unfold Obligations.OutletIsCountedIntoTheSlot
  refine ⟨fun c => ⟨rfl, rfl, rfl, rfl, rfl, rfl⟩, fun s i o n j => ⟨fun slot => ?_, fun slot => ?_⟩,
    fun s w x => ⟨s.plan_settle w x, ?_, ?_⟩⟩
  · rw [State.countOutlet_of_job (j := j) (by rw [slot]; rfl), slot]
    refine ⟨fun other => if_neg other, fun reached run => ?_, fun reached ret halt => ?_, fun reached drain => ?_⟩
    all_goals rw [if_pos reached]
    · simp only [State.raiseJobDone, PlanSlot.mapJob, PlanSlot.isCurrent, State.line_setSlot, LineControl.jobComplete, run,
        if_true]
    · simp only [State.raiseJobDone, PlanSlot.mapJob, PlanSlot.isCurrent, State.line_setSlot, LineControl.jobComplete, halt,
        if_true]
    · simp only [State.raiseJobDone, PlanSlot.mapJob, PlanSlot.isCurrent, State.line_setSlot, LineControl.jobComplete, drain,
        if_true]
  · rw [State.countOutlet_of_job (j := j) (by rw [slot]; rfl), slot]
    refine ⟨fun other => if_neg other, fun reached => ?_⟩
    rw [if_pos reached]
    rfl
  · show ((s.countOutlet x.slot (outletAtLeaving w x)).countRun (outletAtLeaving w x)).line = _
    by_cases reached : ReachesLimit s (outletAtLeaving w x)
    · rw [State.line_countRun_of_reached ((s.reachesLimit_countOutlet _ _ _).2 reached)]
      exact (if_pos reached).symm
    · rw [State.line_countRun_of_not_reached (mt (s.reachesLimit_countOutlet _ _ _).1 reached)]
      exact (if_neg reached).symm
  · have outside := s.sameOutside_settle w x
    exact ⟨outside.position, s.tracker_settle w x, outside.store, outside.ports, outside.pending⟩

/-- Settles O14: the release of a slot by its state, the release of the line, and where a leaving calls them. -/
theorem slotsAreReleased : Obligations.SlotsAreReleased := by
  unfold Obligations.SlotsAreReleased
  refine ⟨fun s i n j => ⟨fun slot => ?_, fun slot => ?_⟩, fun s => ⟨fun ⟨drain, empty⟩ => ?_, fun other => if_neg other⟩,
    fun _ _ _ => rfl⟩
  · rw [State.releaseSlot, slot]
    rfl
  · rw [State.releaseSlot, slot]
    rfl
  · rw [State.releaseLine_of_empty drain empty]
    rfl

end Sys2Proof.Machine
end

/-! ### The receiver (R14, R163 to R166) -/

section
namespace Sys2Proof.Machine

/-- Two changes that agree on the port's controller are one change of the state. -/
theorem State.updatePort_congr {s : State} {p : Port} {f g : PortState → PortState} (h : f (s.port p) = g (s.port p)) :
    s.updatePort p f = s.updatePort p g := by
  simp only [State.updatePort, h]

@[simp] theorem PerPort.set_get {α : Type} (v : PerPort α) (p : Port) : v.set p (v.get p) = v := by
  cases p with
  | supervisor => rfl
  | station q => cases q <;> rfl

/-- A change that leaves the port's controller as it is changes nothing. -/
theorem State.updatePort_eq_self {s : State} {p : Port} {f : PortState → PortState} (h : f (s.port p) = s.port p) :
    s.updatePort p f = s := by
  rw [State.updatePort, h]
  exact congrArg (fun v => { s with ports := v }) (s.ports.set_get p)

/-- A character changes the port as the receiver has it. -/
theorem State.receiveCharacter_eq {s : State} {p : Port} {c : Character} {f : PortState → PortState}
    (h : (s.port p).receive s.position.tracking c = f (s.port p)) :
    s.receiveCharacter p c = (s.updatePort p f).driveAttn :=
  congrArg State.driveAttn (State.updatePort_congr h)

theorem State.receiveCharacter_ignored {s : State} {p : Port} {c : Character}
    (h : (s.port p).receive s.position.tracking c = s.port p) : s.receiveCharacter p c = s.driveAttn :=
  congrArg State.driveAttn (State.updatePort_eq_self h)

/-! What a character makes of each phase of the receiver (R164). -/

theorem PortState.receive_lead {q : PortState} (hunt : q.receiver = .hunt) (t : Position) :
    q.receive t (.byte leadByte) = { q with receiver := .length t } := by
  simp only [PortState.receive, PortState.receiveByte, hunt, if_true]

theorem PortState.receive_hunt {q : PortState} (hunt : q.receiver = .hunt) (t : Position) {c : Character}
    (other : c ≠ .byte leadByte) : q.receive t c = q := by
  cases c with
  | bad => simp only [PortState.receive, PortState.receiveBad, hunt]
  | byte b =>
    have noLead : b ≠ leadByte := fun e => other (e ▸ rfl)
    simp only [PortState.receive, PortState.receiveByte, hunt, if_neg noLead]

theorem PortState.receive_length {q : PortState} {capture : Position} (phase : q.receiver = .length capture) (t : Position)
    {b : Byte} (fits : 1 ≤ b.toNat ∧ b.toNat ≤ 128) :
    q.receive t (.byte b) = { q with receiver := .body capture b.toNat [] } := by
  simp only [PortState.receive, PortState.receiveByte, phase, if_pos fits]

theorem PortState.receive_badLength {q : PortState} {capture : Position} (phase : q.receiver = .length capture)
    (t : Position) {b : Byte} (bad : ¬(1 ≤ b.toNat ∧ b.toNat ≤ 128)) : q.receive t (.byte b) = q.discardFrame := by
  simp only [PortState.receive, PortState.receiveByte, phase, if_neg bad]

theorem PortState.receive_body {q : PortState} {capture : Position} {n : Nat} {bytes : List Byte}
    (phase : q.receiver = .body capture n bytes) (t : Position) (b : Byte) :
    q.receive t (.byte b) = { q with
      receiver := if bytes.length + 1 < n then .body capture n (bytes ++ [b]) else .check capture n (bytes ++ [b]) } := by
  simp only [PortState.receive, PortState.receiveByte, phase, List.length_append, List.length_singleton]
  split <;> rfl

theorem PortState.receive_check {q : PortState} {capture : Position} {n : Nat} {bytes : List Byte}
    (phase : q.receiver = .check capture n bytes) (t : Position) (b : Byte) :
    q.receive t (.byte b) =
      if byteSum (BitVec.ofNat 8 n :: bytes ++ [b]) = 0 then q.completeFrame (frameOf capture bytes)
      else q.discardFrame := by
  simp only [PortState.receive, PortState.receiveByte, phase]

theorem PortState.receive_bad {q : PortState} (busy : q.receiver ≠ .hunt) (t : Position) :
    q.receive t .bad = q.discardFrame := by
  cases phase : q.receiver with
  | hunt => exact absurd phase busy
  | length | body | check => simp only [PortState.receive, PortState.receiveBad, phase]

theorem PortState.completeFrame_room {q : PortState} (room : q.buffer.length < 4) (f : Frame) :
    q.completeFrame f = { q with receiver := .hunt, buffer := q.buffer ++ [f] } :=
  if_pos room

theorem PortState.completeFrame_full {q : PortState} (full : 4 ≤ q.buffer.length) (f : Frame) :
    q.completeFrame f = { q with receiver := .hunt, overrun := true } :=
  if_neg (Nat.not_lt_of_le full)

/-- Settles O15: the port after a character in HUNT, LENGTH and BODY. -/
theorem characterAdvancesTheReceiver : Obligations.CharacterAdvancesTheReceiver := by
  unfold Obligations.CharacterAdvancesTheReceiver
  refine fun s p => ⟨fun hunt => ⟨?_, fun ch other => ?_⟩, fun capture b phase low high => ?_,
    fun capture n bytes b phase => ⟨fun more => ?_, fun last => ?_⟩⟩
  all_goals refine congrArg Host.Outcome.next ?_
  · exact State.receiveCharacter_eq (PortState.receive_lead hunt _)
  · exact State.receiveCharacter_ignored (PortState.receive_hunt hunt _ other)
  · exact State.receiveCharacter_eq (PortState.receive_length phase _ ⟨low, high⟩)
  · refine State.receiveCharacter_eq ?_
    rw [PortState.receive_body phase, if_pos more]
  · refine State.receiveCharacter_eq ?_
    rw [PortState.receive_body phase, if_neg (Nat.not_lt_of_le last)]

/-! The sum of bytes (R163). -/

theorem toNat_foldl_add (bs : List Byte) : ∀ a : Byte,
    (bs.foldl (· + ·) a).toNat = (a.toNat + (bs.map (·.toNat)).sum) % 256 := by
  induction bs with
  | nil =>
    intro a
    have := a.isLt
    simp only [List.foldl_nil, List.map_nil, List.sum_nil]
    omega
  | cons b bs ih =>
    intro a
    rw [List.foldl_cons, ih, BitVec.toNat_add, List.map_cons, List.sum_cons]
    omega

theorem byteSum_eq_zero_iff (bs : List Byte) : byteSum bs = 0 ↔ (bs.map (·.toNat)).sum % 256 = 0 := by
  rw [← BitVec.toNat_inj, byteSum, toNat_foldl_add]
  simp

theorem byteSum_append (bs : List Byte) (b : Byte) : byteSum (bs ++ [b]) = byteSum bs + b := by
  simp only [byteSum, List.foldl_append, List.foldl_cons, List.foldl_nil]

/-- The check byte as the bytes' numbers have it (R163). -/
theorem check_passes_iff (n : Nat) (k : Byte) (payload : List Byte) (b : Byte) :
    byteSum (BitVec.ofNat 8 n :: (k :: payload) ++ [b]) = 0 ↔
      (n + k.toNat + (payload.map (·.toNat)).sum + b.toNat) % 256 = 0 := by
  rw [byteSum_eq_zero_iff]
  simp only [List.cons_append, List.map_cons, List.map_append, List.sum_cons, List.sum_append, BitVec.toNat_ofNat,
    List.map_nil, List.sum_nil]
  omega

/-- Settles O16: the port after a check byte, a bad length and a bad character. -/
theorem frameIsCompletedOrDropped : Obligations.FrameIsCompletedOrDropped := by
  unfold Obligations.FrameIsCompletedOrDropped
  refine fun s p => ⟨fun capture n k payload b phase _ => ⟨fun passes => ⟨fun room => ?_, fun full => ?_⟩,
    fun fails => ?_⟩, fun capture b phase bad => ?_, fun busy => ?_⟩
  all_goals refine congrArg Host.Outcome.next (State.receiveCharacter_eq ?_)
  · rw [PortState.receive_check phase, if_pos ((check_passes_iff n k payload b).2 passes),
      PortState.completeFrame_room room]
    rfl
  · rw [PortState.receive_check phase, if_pos ((check_passes_iff n k payload b).2 passes),
      PortState.completeFrame_full full]
  · rw [PortState.receive_check phase, if_neg (mt (check_passes_iff n k payload b).1 fails)]
    rfl
  · rw [PortState.receive_badLength phase _ (by omega)]
    rfl
  · rw [PortState.receive_bad busy]
    rfl

theorem PortState.gapTimeout_busy {q : PortState} (busy : q.receiver ≠ .hunt) : q.gapTimeout = q.discardFrame := by
  cases phase : q.receiver with
  | hunt => exact absurd phase busy
  | length | body | check => simp only [PortState.gapTimeout, phase]

theorem PortState.gapTimeout_hunt {q : PortState} (hunt : q.receiver = .hunt) : q.gapTimeout = q := by
  simp only [PortState.gapTimeout, hunt]

/-- Settles O17: the port after a gap within and outside a frame, and after an answer sent. -/
theorem gapTimeoutAndAnswerSent : Obligations.GapTimeoutAndAnswerSent := by
  unfold Obligations.GapTimeoutAndAnswerSent
  refine fun s p => ⟨fun busy => ?_, fun hunt => ?_, fun a as held => ?_, fun none => ?_⟩
  all_goals refine congrArg (fun t : State => Host.Outcome.next t.driveAttn) ?_
  · exact State.updatePort_congr (PortState.gapTimeout_busy busy)
  · exact State.updatePort_eq_self (PortState.gapTimeout_hunt hunt)
  · exact State.updatePort_congr (by rw [held, List.tail_cons])
  · refine State.updatePort_eq_self ?_
    rw [none]
    exact congrArg (fun l => { s.port p with answers := l }) none.symm

/-! A whole frame through the receiver (R163, R164). -/

/-- The bytes of kind and payload, received to the last. -/
theorem foldl_receive_body (t capture : Position) (n : Nat) (rest : List Byte) : ∀ (q : PortState) (bytes : List Byte),
    q.receiver = .body capture n bytes → rest ≠ [] → bytes.length + rest.length = n →
      rest.foldl (fun u b => u.receive t (.byte b)) q = { q with receiver := .check capture n (bytes ++ rest) } := by
  induction rest with
  | nil => exact fun _ _ _ some_byte => absurd rfl some_byte
  | cons b rest ih =>
    intro q bytes phase _ whole
    rw [List.length_cons] at whole
    rw [List.foldl_cons, PortState.receive_body phase]
    cases rest with
    | nil => rw [if_neg (by rw [List.length_nil] at whole; omega), List.foldl_nil]
    | cons c rest =>
      rw [List.length_cons] at whole
      rw [if_pos (by omega), ih _ (bytes ++ [b]) rfl (List.cons_ne_nil c rest)
        (by rw [List.length_append, List.length_singleton, List.length_cons]; omega), List.append_assoc]
      rfl

/-- Settles O19: lead byte, length, the bytes of kind and payload, and the check byte, one after the other. -/
theorem sentFrameArrivesWhole : Obligations.SentFrameArrivesWhole := by
  unfold Obligations.SentFrameArrivesWhole
  intro q t kind payload fits hunt room
  have length : (BitVec.ofNat 8 (payload.length + 1)).toNat = payload.length + 1 := by
    rw [BitVec.toNat_ofNat]
    omega
  have allowed : 1 ≤ (BitVec.ofNat 8 (payload.length + 1)).toNat ∧ (BitVec.ofNat 8 (payload.length + 1)).toNat ≤ 128 := by
    omega
  have passes : byteSum (BitVec.ofNat 8 (payload.length + 1) :: (kind :: payload) ++
      [-byteSum (BitVec.ofNat 8 (payload.length + 1) :: kind :: payload)]) = 0 := by
    rw [byteSum_append]
    exact BitVec.add_right_neg _
  rw [wireFrame, List.cons_append, List.cons_append, List.foldl_cons, PortState.receive_lead hunt, List.foldl_cons,
    PortState.receive_length rfl t allowed, length, List.foldl_append,
    foldl_receive_body t t (payload.length + 1) (kind :: payload) _ [] rfl (List.cons_ne_nil _ _)
      (by rw [List.length_nil, List.length_cons]; omega), List.foldl_cons, List.foldl_nil,
    PortState.receive_check rfl, List.nil_append, if_pos passes]
  refine (PortState.completeFrame_room ?_ _).trans ?_
  · exact room
  obtain ⟨receiver, _⟩ := q
  obtain rfl : receiver = .hunt := hunt
  rfl

end Sys2Proof.Machine
end

/-! ### What a port answers by itself (R166 to R168) -/

section
namespace Sys2Proof.Machine

/-! A payload is read exactly when its length is the one fixed for the kind (R167, section 12.3). -/

theorem isSome_parseNone (bs : List Byte) : (parseNone bs).isSome = (bs.length + 1 == 1) := by
  cases bs <;> simp [parseNone]

theorem isSome_parseByte (bs : List Byte) : (parseByte bs).isSome = (bs.length + 1 == 2) := by
  rcases bs with _ | ⟨_, _ | ⟨_, _⟩⟩ <;> simp [parseByte]

theorem isSome_parseSet (bs : List Byte) : (parseSet bs).isSome = (bs.length + 1 == 3) := by
  rcases bs with _ | ⟨_, _ | ⟨_, _ | ⟨_, _⟩⟩⟩ <;> simp [parseSet]

theorem isSome_parseSetByte (bs : List Byte) : (parseSetByte bs).isSome = (bs.length + 1 == 4) := by
  rcases bs with _ | ⟨_, _ | ⟨_, _ | ⟨_, _ | ⟨_, _⟩⟩⟩⟩ <;> simp [parseSetByte]

theorem isSome_parseSheet (bs : List Byte) : (parseSheet bs).isSome = (bs.length + 1 == 6) := by
  rcases bs with _ | ⟨_, _ | ⟨_, _ | ⟨_, _ | ⟨_, _ | ⟨_, _ | ⟨_, _⟩⟩⟩⟩⟩⟩ <;> simp [parseSheet]

theorem isSome_parseSetLine (bs : List Byte) : (parseSetLine bs).isSome = (bs.length + 1 == 7) := by
  rcases bs with _ | ⟨_, _ | ⟨_, _ | ⟨_, _ | ⟨_, _ | ⟨_, _ | ⟨_, _ | ⟨_, _⟩⟩⟩⟩⟩⟩⟩ <;> simp [parseSetLine]

theorem isSome_parseSetDie (bs : List Byte) : (parseSetDie bs).isSome = (bs.length + 1 == 8) := by
  rcases bs with _ | ⟨_, _ | ⟨_, _ | ⟨_, _ | ⟨_, _ | ⟨_, _ | ⟨_, _ | ⟨_, _ | ⟨_, _⟩⟩⟩⟩⟩⟩⟩⟩ <;> simp [parseSetDie]

theorem isSome_parseSetStation (bs : List Byte) : (parseSetStation bs).isSome = (bs.length + 1 == 9) := by
  rcases bs with _ | ⟨_, _ | ⟨_, _ | ⟨_, _ | ⟨_, _ | ⟨_, _ | ⟨_, _ | ⟨_, _ | ⟨_, _ | ⟨_, _⟩⟩⟩⟩⟩⟩⟩⟩⟩ <;>
    simp [parseSetStation]

theorem isSome_parseSetRules (bs : List Byte) : (parseSetRules bs).isSome = lengthFits 0x23 bs := by
  cases bs with
  | nil => rfl
  | cons count bs =>
    show (parseSetRules (count :: bs)).isSome = (bs.length + 1 + 1 == 2 + 4 * count.toNat)
    rw [Bool.eq_iff_iff, beq_iff_eq, parseSetRules]
    split <;> simp <;> omega

/-- The last of a recipe's fixed bytes is its number of groups. -/
theorem fieldAt_33 (bs : List Byte) : fieldAt bs 33 1 = (bs[33]?.map (·.toNat)).getD 0 := by
  unfold fieldAt
  cases held : bs[33]? with
  | none =>
    rw [List.drop_eq_nil_of_le (List.getElem?_eq_none_iff.1 held)]
    rfl
  | some count =>
    obtain ⟨within, rfl⟩ := List.getElem?_eq_some_iff.1 held
    rw [List.drop_eq_getElem_cons within, List.take_succ_cons, List.take_zero]
    simp [fromBytes]

theorem isSome_parseRecipe (bs : List Byte) :
    (parseRecipe bs).isSome = true ↔ ∃ count, bs[33]? = some count ∧ bs.length = 34 + 6 * count.toNat := by
  unfold parseRecipe
  simp only [fieldAt_33]
  cases held : bs[33]? with
  | none =>
    have short := List.getElem?_eq_none_iff.1 held
    rw [if_neg (by omega)]
    simp
  | some count =>
    have long := (List.getElem?_eq_some_iff.1 held).1
    split <;> simp_all
    omega

theorem isSome_parseStageInline (bs : List Byte) : (parseRecipe bs).isSome = lengthFits 0x28 bs := by
  rw [Bool.eq_iff_iff, isSome_parseRecipe]
  show _ ↔ (match bs[33]? with
    | none => false
    | some count => bs.length + 1 == 35 + 6 * count.toNat) = true
  cases bs[33]? with
  | none => simp
  | some count =>
    simp
    omega

theorem isSome_parseStore (bs : List Byte) : (parseStore bs).isSome = lengthFits 0x24 bs := by
  cases bs with
  | nil => rfl
  | cons slot bs =>
    rw [parseStore, Option.isSome_map, Bool.eq_iff_iff, isSome_parseRecipe]
    show _ ↔ (match bs[33]? with
      | none => false
      | some count => bs.length + 1 + 1 == 36 + 6 * count.toNat) = true
    cases bs[33]? with
    | none => simp
    | some count =>
      simp
      omega

/-- What a collator's request does on a port: ROLE unless the port is the collator's (R168). -/
def collatorOnly {α : Type} (q : StationPort) (act : α → Position → State → Reply) (a : α) (c : Position) (t : State) :
    Reply :=
  if (t.station q).role = .collator then act a c t else (t, .bare .role)

/-- Every request is taken off its port under its kind, and its payload is read exactly when its length fits. -/
theorem exec_request {c : Instr} {p : Port} {kind : Byte} (request : requestOf c = some (p, kind)) :
    ∃ (α : Type) (parse : List Byte → Option α) (act : α → Position → State → Reply),
      (∀ s, exec c s = takeRequest p kind parse act s) ∧ ∀ bs, (parse bs).isSome = lengthFits kind bs := by
  cases c <;> cases request
  case setLine => exact ⟨_, parseSetLine, fun a _ t => setLineRequest a t, fun _ => rfl, isSome_parseSetLine⟩
  case setStation => exact ⟨_, parseSetStation, fun a _ t => setStationRequest a t, fun _ => rfl, isSome_parseSetStation⟩
  case setDie => exact ⟨_, parseSetDie, fun a _ t => setDieRequest a t, fun _ => rfl, isSome_parseSetDie⟩
  case setRules => exact ⟨_, parseSetRules, fun a _ t => setRulesRequest a t, fun _ => rfl, isSome_parseSetRules⟩
  case store => exact ⟨_, parseStore, fun a _ t => storeRequest a t, fun _ => rfl, isSome_parseStore⟩
  case erase => exact ⟨_, parseByte, fun a _ t => eraseRequest a t, fun _ => rfl, isSome_parseByte⟩
  case readRecipe => exact ⟨_, parseByte, fun a _ t => readRecipeRequest a t, fun _ => rfl, isSome_parseByte⟩
  case stage => exact ⟨_, parseByte, fun a _ t => stageRequest a t, fun _ => rfl, isSome_parseByte⟩
  case stageInline => exact ⟨_, parseRecipe, fun a _ t => stageInlineRequest a t, fun _ => rfl, isSome_parseStageInline⟩
  case discard => exact ⟨_, parseNone, fun a _ t => discardRequest a t, fun _ => rfl, isSome_parseNone⟩
  case changeover => exact ⟨_, parseNone, fun a _ t => changeoverRequest a t, fun _ => rfl, isSome_parseNone⟩
  case endJob => exact ⟨_, parseNone, fun a _ t => endJobRequest a t, fun _ => rfl, isSome_parseNone⟩
  case stop => exact ⟨_, parseNone, fun a _ t => stopRequest a t, fun _ => rfl, isSome_parseNone⟩
  case resume => exact ⟨_, parseNone, fun a _ t => resumeRequest a t, fun _ => rfl, isSome_parseNone⟩
  case purge => exact ⟨_, parseNone, fun a _ t => purgeRequest a t, fun _ => rfl, isSome_parseNone⟩
  case markSample => exact ⟨_, parseSet, fun a _ t => markSampleRequest a t, fun _ => rfl, isSome_parseSet⟩
  case readStatus => exact ⟨_, parseNone, fun a _ t => readStatusRequest a t, fun _ => rfl, isSome_parseNone⟩
  case readSet => exact ⟨_, parseSet, fun a _ t => readSetRequest a t, fun _ => rfl, isSome_parseSet⟩
  case readPlan => exact ⟨_, parseByte, fun a _ t => readPlanRequest a t, fun _ => rfl, isSome_parseByte⟩
  case readHistory => exact ⟨_, parseNone, fun a _ t => readHistoryRequest a t, fun _ => rfl, isSome_parseNone⟩
  case rewind => exact ⟨_, parseNone, fun a _ t => rewindRequest a t, fun _ => rfl, isSome_parseNone⟩
  case readPortStatus => exact ⟨_, parseByte, fun a _ t => readPortStatusRequest a t, fun _ => rfl, isSome_parseByte⟩
  case openSet => exact ⟨_, parseNone, collatorOnly _ openRequest, fun _ => rfl, isSome_parseNone⟩
  case sheet => exact ⟨_, parseSheet, collatorOnly _ sheetRequest, fun _ => rfl, isSome_parseSheet⟩
  case closeSet => exact ⟨_, parseSet, collatorOnly _ closeRequest, fun _ => rfl, isSome_parseSet⟩
  case abandon => exact ⟨_, parseSet, collatorOnly _ abandonRequest, fun _ => rfl, isSome_parseSet⟩
  case edge q => exact ⟨_, parseByte, edgeRequest q, fun _ => rfl, isSome_parseByte⟩
  case lift q => exact ⟨_, parseSetByte, liftRequest q, fun _ => rfl, isSome_parseSetByte⟩
  case done q => exact ⟨_, parseSet, doneRequest q, fun _ => rfl, isSome_parseSet⟩
  case fault q => exact ⟨_, parseSetByte, faultRequest q, fun _ => rfl, isSome_parseSetByte⟩
  case diverted q => exact ⟨_, parseSetByte, divertedRequest q, fun _ => rfl, isSome_parseSetByte⟩

/-- A request of a wrong length is answered BADLEN (R167). -/
theorem exec_badLen {c : Instr} {s : State} {p : Port} {f : Frame} {rest : List Frame} (taking : s.Taking p f rest)
    (request : requestOf c = some (p, f.kind)) (misfit : lengthFits f.kind f.payload = false) :
    exec c s = .next (s.reply p f rest (.bare .badLen)) := by
  obtain ⟨α, parse, act, run, reads⟩ := exec_request request
  obtain ⟨kind, payload, capture⟩ := f
  rw [run]
  refine takeRequest_badLen taking ?_
  rw [← Option.isNone_iff_eq_none, ← Option.not_isSome, reads, misfit, Bool.not_false]

/-- Nothing is taken on a port whose answer queue is full (R166). -/
theorem exec_full {c : Instr} {s : State} {p : Port} (full : 4 ≤ (s.port p).answers.length)
    (takes : (∃ k, requestOf c = some (p, k)) ∨ c = .unknownKind p) : exec c s = .next s := by
  obtain ⟨k, request⟩ | rfl := takes
  · obtain ⟨α, parse, act, run, -⟩ := exec_request request
    rw [run]
    exact takeFrame_full full
  · exact takeFrame_full (wanted := fun k => !kindOfPort p k) (act := fun _ t => (t, .bare .role)) full

/-- A frame whose kind is no request of its port is answered ROLE (R167). -/
theorem exec_unknownKind {s : State} {p : Port} {f : Frame} {rest : List Frame} (taking : s.Taking p f rest)
    (unknown : kindOfPort p f.kind = false) : exec (.unknownKind p) s = .next (s.reply p f rest (.bare .role)) := by
  show takeFrame p (fun k => !kindOfPort p k) (fun _ t => (t, .bare .role)) s = _
  rw [takeFrame_taken taking (by rw [unknown]; rfl), State.reply_eq]

/-- The collator's requests are answered ROLE on a port of another role (R168). -/
theorem exec_collator_otherRole {c : Instr} {s : State} {q : StationPort} {f : Frame} {rest : List Frame}
    (taking : s.Taking (.station q) f rest) (fits : lengthFits f.kind f.payload = true)
    (other : (s.station q).role ≠ .collator) (collator : c ∈ [Instr.openSet q, .sheet q, .closeSet q, .abandon q])
    (request : requestOf c = some (.station q, f.kind)) :
    exec c s = .next (s.reply (.station q) f rest (.bare .role)) := by
  obtain ⟨kind, payload, capture⟩ := f
  have read {α : Type} {parse : List Byte → Option α} (reads : ∀ bs, (parse bs).isSome = lengthFits kind bs) :
      ∃ a, parse payload = some a := Option.isSome_iff_exists.1 ((reads payload).trans fits)
  simp only [List.mem_cons, List.not_mem_nil, or_false] at collator
  obtain rfl | rfl | rfl | rfl := collator <;> cases request
  · obtain ⟨a, parsed⟩ := read isSome_parseNone
    exact takeCollator_otherRole taking parsed other
  · obtain ⟨a, parsed⟩ := read isSome_parseSheet
    exact takeCollator_otherRole taking parsed other
  · obtain ⟨a, parsed⟩ := read isSome_parseSet
    exact takeCollator_otherRole taking parsed other
  · obtain ⟨a, parsed⟩ := read isSome_parseSet
    exact takeCollator_otherRole taking parsed other

/-- An EDGE is answered ROLE on a port that holds no station role (R168). -/
theorem exec_edge_unstaffed {s : State} {q : StationPort} {f : Frame} {rest : List Frame}
    (taking : s.Taking (.station q) f rest) (kind : f.kind = kindEdge) (fits : lengthFits f.kind f.payload = true)
    (unstaffed : (s.station q).role = .none ∨ (s.station q).role = .collator) :
    exec (.edge q) s = .next (s.reply (.station q) f rest (.bare .role)) := by
  obtain ⟨k, payload, capture⟩ := f
  obtain rfl : k = kindEdge := kind
  obtain ⟨lag, parsed⟩ := Option.isSome_iff_exists.1 ((isSome_parseByte payload).trans fits)
  have refused : ∀ t : State, t.station q = s.station q → edgeRequest q lag capture t = (t, .bare .role) := by
    intro t same
    obtain role | role := unstaffed <;> simp only [edgeRequest, same, role, Role.stationRole]
  have taken := takeRequest_taken (act := edgeRequest q) taking parsed
  rw [refused (s.withoutFrame _ rest) rfl, State.reply_eq (f := ⟨kindEdge, payload, capture⟩)] at taken
  exact taken

/-- Settles O18, clause by clause. -/
theorem portAnswersRoleAndBadLen : Obligations.PortAnswersRoleAndBadLen := by
  unfold Obligations.PortAnswersRoleAndBadLen
  refine ⟨fun s p f rest taking => ⟨?_, ?_, fun c request misfit => exec_badLen taking request misfit, ?_⟩,
    fun s p c full takes => exec_full full takes⟩
  · rintro rfl outside
    refine exec_unknownKind taking ?_
    simp only [kindOfPort, Bool.and_eq_false_iff, decide_eq_false_iff_not]
    omega
  · rintro q rfl outside
    refine exec_unknownKind taking ?_
    simp only [kindOfPort, Bool.and_eq_false_iff, decide_eq_false_iff_not]
    omega
  · rintro q rfl fits
    exact ⟨fun other c collator request => exec_collator_otherRole taking fits other collator request,
      fun unstaffed kind => exec_edge_unstaffed taking kind fits unstaffed⟩

end Sys2Proof.Machine
end

/-! ### Requests with parameters -/

section
namespace Sys2Proof.Machine

/-- The effect of a request with parameters that is taken, for a block that does not see the ports. -/
theorem takeRequest_parsed {α : Type} {p : Port} {kind : Byte} {parse : List Byte → Option α}
    {act : α → Position → State → Reply} {s : State} {f : Frame} {rest : List Frame} {a : α} (taking : s.Taking p f rest)
    (ofKind : f.kind = kind) (read : parse f.payload = some a)
    (unseen : ∀ (s : State) (v : PerPort PortState),
      act a f.capture (s.withPorts v) = Reply.withPorts (act a f.capture s) v) :
    takeRequest p kind parse act s =
      .next ((act a f.capture s).1.reply p f rest (act a f.capture s).2) := by
  obtain ⟨k, payload, capture⟩ := f
  obtain rfl : k = kind := ofKind
  exact takeRequest_answered taking read unseen

theorem takeSupervisor_parsed {α : Type} {kind : Byte} {parse : List Byte → Option α} {act : α → State → Reply}
    {s : State} {f : Frame} {rest : List Frame} {a : α} (taking : s.Taking .supervisor f rest) (ofKind : f.kind = kind)
    (read : parse f.payload = some a)
    (unseen : ∀ (s : State) (v : PerPort PortState), act a (s.withPorts v) = Reply.withPorts (act a s) v) :
    takeSupervisor kind parse act s = .next ((act a s).1.reply .supervisor f rest (act a s).2) :=
  takeRequest_parsed (act := fun a _ t => act a t) taking ofKind read unseen

theorem takeCollator_parsed {α : Type} {p : StationPort} {kind : Byte} {parse : List Byte → Option α}
    {act : α → Position → State → Reply} {s : State} {f : Frame} {rest : List Frame} {a : α}
    (taking : s.Taking (.station p) f rest) (ofKind : f.kind = kind) (read : parse f.payload = some a)
    (role : (s.station p).role = .collator)
    (unseen : ∀ (s : State) (v : PerPort PortState),
      act a f.capture (s.withPorts v) = Reply.withPorts (act a f.capture s) v) :
    takeCollator p kind parse act s =
      .next ((act a f.capture s).1.reply (.station p) f rest (act a f.capture s).2) := by
  obtain ⟨k, payload, capture⟩ := f
  obtain rfl : k = kind := ofKind
  exact takeCollator_answered taking read role unseen

end Sys2Proof.Machine
end

/-! ### SET LINE (R95, R97) -/

section
namespace Sys2Proof.Machine

/-! The first field of a SET LINE that fails: each field's range, as the fields before it pass. -/

theorem lineConfigFailure_divider {c : LineConfig} (divider : ¬(c.divider = 1 ∨ c.divider = 2 ∨ c.divider = 4)) :
    lineConfigFailure c = some ⟨1, 0⟩ := by
  simp only [not_or] at divider
  simp [lineConfigFailure, firstFailure, divider]

theorem lineConfigFailure_reverse {c : LineConfig} (divider : c.divider = 1 ∨ c.divider = 2 ∨ c.divider = 4)
    (reverse : ¬(10 ≤ c.reverseLimit ∧ c.reverseLimit ≤ 2000)) : lineConfigFailure c = some ⟨2, 0⟩ := by
  rw [← or_assoc] at divider
  simp [lineConfigFailure, firstFailure, inRange_iff, divider, reverse]

theorem lineConfigFailure_spacing {c : LineConfig} (divider : c.divider = 1 ∨ c.divider = 2 ∨ c.divider = 4)
    (reverse : 10 ≤ c.reverseLimit ∧ c.reverseLimit ≤ 2000) (spacing : ¬(100 ≤ c.spacing ∧ c.spacing ≤ 20000)) :
    lineConfigFailure c = some ⟨3, 0⟩ := by
  rw [← or_assoc] at divider
  simp [lineConfigFailure, firstFailure, inRange_iff, divider, reverse, spacing]

theorem lineConfigFailure_eq_none {c : LineConfig} (divider : c.divider = 1 ∨ c.divider = 2 ∨ c.divider = 4)
    (reverse : 10 ≤ c.reverseLimit ∧ c.reverseLimit ≤ 2000) (spacing : 100 ≤ c.spacing ∧ c.spacing ≤ 20000)
    (reject : c.rejectLimit < 256) : lineConfigFailure c = none := by
  rw [← or_assoc] at divider
  simp [lineConfigFailure, firstFailure, inRange_iff, divider, reverse, spacing, Nat.le_of_lt_succ reject]

theorem LineControl.validated_eq {l : LineControl} (setup : l.state = .unconfigured ∨ l.state = .idle)
    (r : ConfigResult) :
    l.validated (r == .ok) = { l with state := if r = .ok then .idle else .unconfigured } := by
  obtain state | state := setup <;> simp only [LineControl.validated, state, beq_iff_eq]

theorem setLineRequest_refused {s : State} (c : LineConfig)
    (busy : s.line.state ≠ .unconfigured ∧ s.line.state ≠ .idle) : setLineRequest c s = (s, .bare .state) := by
  simp [setLineRequest, mt (isSetup_iff _).1 (not_or.2 busy)]

theorem setLineRequest_outOfRange {s : State} {c : LineConfig} {e : FieldRef}
    (setup : s.line.state = .unconfigured ∨ s.line.state = .idle) (fails : lineConfigFailure c = some e) :
    setLineRequest c s = (s, .range e.field e.group) := by
  simp [setLineRequest, (isSetup_iff _).2 setup, fails]

theorem setLineRequest_taken {s : State} {c : LineConfig}
    (setup : s.line.state = .unconfigured ∨ s.line.state = .idle) (fits : lineConfigFailure c = none) :
    setLineRequest c s =
      let v := validate s.tracker.stations c
      ({ s with
        position := { s.position with tally := 0 }
        tracker := { s.tracker with lineConfig := c }
        verdict := { s.verdict with rejectRun := 0 }
        line := { s.line with state := if v.result = .ok then .idle else .unconfigured } },
       ⟨.ok, be1 (configResultByte v.result) ++ be1 ((v.port.map stationNumber).getD 0)⟩) := by
  have line := LineControl.validated_eq setup (validate s.tracker.stations c).result
  simp only [setLineRequest, (isSetup_iff _).2 setup, fits, State.revalidate, State.writeLine, line, Bool.not_true,
    Bool.false_eq_true, if_false]

/-- Settles O20: the request's refusals in order and its effect. -/
theorem setLineIsTaken : Obligations.SetLineIsTaken := by
  unfold Obligations.SetLineIsTaken
  intro s f rest c taking kind payload hdivider hreverse hspacing hreject
  have read : parseSetLine f.payload = some c := by
    rw [payload]
    exact parseSetLine_bytes hdivider hreverse hspacing hreject
  have taken : exec .setLine s = .next ((setLineRequest c s).1.reply .supervisor f rest (setLineRequest c s).2) :=
    takeSupervisor_parsed taking kind read (setLineRequest_withPorts c)
  rw [taken]
  refine ⟨fun busy => ?_, fun setup => ⟨fun divider => ?_, fun divider reverse => ?_,
    fun divider reverse spacing => ?_, fun divider reverse spacing => ?_⟩⟩
  · rw [setLineRequest_refused c busy]
  · rw [setLineRequest_outOfRange setup (lineConfigFailure_divider divider)]
  · rw [setLineRequest_outOfRange setup (lineConfigFailure_reverse divider reverse)]
  · rw [setLineRequest_outOfRange setup (lineConfigFailure_spacing divider reverse spacing)]
  · rw [setLineRequest_taken setup (lineConfigFailure_eq_none divider reverse spacing hreject)]

end Sys2Proof.Machine
end

/-! ### SET STATION (R55, R94, R97) -/

section
namespace Sys2Proof.Machine

theorem stationOfNumber_outside {n : Nat} (outside : n = 0 ∨ 6 < n) : stationOfNumber n = none := by
  obtain rfl | above := outside
  · rfl
  · obtain ⟨m, rfl⟩ := Nat.exists_eq_add_of_le' above
    rfl

@[simp] theorem stationOfNumber_stationNumber (p : StationPort) : stationOfNumber (stationNumber p) = some p := by
  cases p <;> rfl

theorem stationOfNumber_within {n : Nat} (low : 1 ≤ n) (high : n ≤ 6) : ∃ p, stationOfNumber n = some p := by
  obtain rfl | rfl | rfl | rfl | rfl | rfl : n = 1 ∨ n = 2 ∨ n = 3 ∨ n = 4 ∨ n = 5 ∨ n = 6 := by omega
  all_goals exact ⟨_, rfl⟩

theorem roleOfByte_outside {n : Nat} (outside : 6 < n) : roleOfByte n = none := by
  obtain ⟨m, rfl⟩ := Nat.exists_eq_add_of_le' outside
  rfl

@[simp] theorem roleOfByte_roleByte (role : Role) : roleOfByte (roleByte role) = some role := by
  cases role with
  | none | collator => rfl
  | station r => cases r <;> rfl

/-- The first of A, Z and Tol that fails, looked at for a station role alone (R94). -/
def windowFailureOf (role : Role) (c : StationParams) : Option FieldRef :=
  if role.stationRole.isSome then windowParamFailure c else none

theorem stationRole_isSome_iff (role : Role) : role.stationRole.isSome = true ↔ role ≠ .none ∧ role ≠ .collator := by
  cases role <;> simp [Role.stationRole]

theorem windowFailureOf_arrive {role : Role} {c : StationParams} (staffed : role ≠ .none ∧ role ≠ .collator)
    (arrive : 65000 < c.arrive) : windowFailureOf role c = some ⟨3, 0⟩ := by
  rw [windowFailureOf, if_pos ((stationRole_isSome_iff role).2 staffed)]
  simp [windowParamFailure, firstFailure, inRange_iff, Nat.not_le.2 arrive]

theorem windowFailureOf_close {role : Role} {c : StationParams} (staffed : role ≠ .none ∧ role ≠ .collator)
    (arrive : c.arrive ≤ 65000) (close : 65000 < c.close) : windowFailureOf role c = some ⟨4, 0⟩ := by
  rw [windowFailureOf, if_pos ((stationRole_isSome_iff role).2 staffed)]
  simp [windowParamFailure, firstFailure, inRange_iff, arrive, Nat.not_le.2 close]

theorem windowFailureOf_tol {role : Role} {c : StationParams} (staffed : role ≠ .none ∧ role ≠ .collator)
    (arrive : c.arrive ≤ 65000) (close : c.close ≤ 65000) (tol : ¬(1 ≤ c.tol ∧ c.tol ≤ 500)) :
    windowFailureOf role c = some ⟨5, 0⟩ := by
  rw [windowFailureOf, if_pos ((stationRole_isSome_iff role).2 staffed)]
  simp [windowParamFailure, firstFailure, inRange_iff, arrive, close, tol]

theorem windowFailureOf_eq_none {role : Role} {c : StationParams}
    (fits : role ≠ .none ∧ role ≠ .collator → c.arrive ≤ 65000 ∧ c.close ≤ 65000 ∧ 1 ≤ c.tol ∧ c.tol ≤ 500) :
    windowFailureOf role c = none := by
  unfold windowFailureOf
  split
  next staffed =>
    obtain ⟨arrive, close, tol⟩ := fits ((stationRole_isSome_iff role).1 staffed)
    simp [windowParamFailure, firstFailure, inRange_iff, arrive, close, tol]
  next => rfl

theorem stationEntry_eq (role : Role) (c : StationParams) :
    stationEntry role c =
      if role = .none ∨ role = .collator then ⟨role, 0, 0, 0⟩ else ⟨role, c.arrive, c.close, c.tol⟩ := by
  cases role <;> simp [stationEntry]

/-- The examination of the STAGED plan reaches the plan unit alone (R55). -/
theorem State.examineStaged_eq (s : State) :
    s.examineStaged = { s with
      plan := if s.plan.slotA.lacksHanger s.tracker.stations ∨ s.plan.slotB.lacksHanger s.tracker.stations then
        s.plan.discardStaged else s.plan } := by
  unfold State.examineStaged
  simp only [Bool.or_eq_true]
  split <;> rfl

theorem setStationRequest_refused {s : State} (c : StationParams)
    (busy : s.line.state ≠ .unconfigured ∧ s.line.state ≠ .idle) : setStationRequest c s = (s, .bare .state) := by
  simp [setStationRequest, mt (isSetup_iff _).1 (not_or.2 busy)]

theorem setStationRequest_badPort {s : State} {c : StationParams}
    (setup : s.line.state = .unconfigured ∨ s.line.state = .idle) (port : stationOfNumber c.port = none) :
    setStationRequest c s = (s, .range 1 0) := by
  simp [setStationRequest, (isSetup_iff _).2 setup, port]

theorem setStationRequest_badRole {s : State} {c : StationParams} {p : StationPort}
    (setup : s.line.state = .unconfigured ∨ s.line.state = .idle) (port : stationOfNumber c.port = some p)
    (role : roleOfByte c.role = none) : setStationRequest c s = (s, .range 2 0) := by
  simp [setStationRequest, (isSetup_iff _).2 setup, port, role]

theorem setStationRequest_checked {s : State} {c : StationParams} {p : StationPort} {role : Role}
    (setup : s.line.state = .unconfigured ∨ s.line.state = .idle) (port : stationNumber p = c.port)
    (named : roleByte role = c.role) : setStationRequest c s = setStationChecked p role c s := by
  simp only [setStationRequest, (isSetup_iff _).2 setup, ← port, ← named, stationOfNumber_stationNumber,
    roleOfByte_roleByte, Bool.not_true, Bool.false_eq_true, if_false]

theorem setStationChecked_outOfRange {s : State} {c : StationParams} {p : StationPort} {role : Role} {e : FieldRef}
    (fails : windowFailureOf role c = some e) : setStationChecked p role c s = (s, .range e.field e.group) := by
  unfold windowFailureOf at fails
  simp only [setStationChecked, fails]

theorem setStationChecked_taken {s : State} {c : StationParams} {p : StationPort} {role : Role}
    (setup : s.line.state = .unconfigured ∨ s.line.state = .idle) (fits : windowFailureOf role c = none) :
    setStationChecked p role c s =
      let table := s.tracker.stations.set p (stationEntry role c)
      let v := validate table s.tracker.lineConfig
      ({ s with
        tracker := { s.tracker with stations := table, missCounts := s.tracker.missCounts.set p 0 }
        plan := if s.plan.slotA.lacksHanger table ∨ s.plan.slotB.lacksHanger table then s.plan.discardStaged else s.plan
        line := { s.line with state := if v.result = .ok then .idle else .unconfigured } },
       ⟨.ok, be1 (configResultByte v.result) ++ be1 ((v.port.map stationNumber).getD 0)⟩) := by
  have line := LineControl.validated_eq setup
  unfold windowFailureOf at fits
  simp only [setStationChecked, fits, State.examineStaged_eq, State.revalidate, State.writeStation, line]

/-- Settles O21: the request's refusals in order and its effect. -/
theorem setStationIsTaken : Obligations.SetStationIsTaken := by
  unfold Obligations.SetStationIsTaken
  intro s f rest c taking kind payload hport hrole harrive hclose htol
  have read : parseSetStation f.payload = some c := by
    rw [payload]
    exact parseSetStation_bytes hport hrole harrive hclose htol
  have taken : exec .setStation s =
      .next ((setStationRequest c s).1.reply .supervisor f rest (setStationRequest c s).2) :=
    takeSupervisor_parsed taking kind read (setStationRequest_withPorts c)
  rw [taken]
  refine ⟨fun busy => ?_, fun setup => ⟨fun port => ?_, fun low high role => ?_, fun p role port named =>
    ⟨fun staffed arrive => ?_, fun staffed arrive close => ?_, fun staffed arrive close tol => ?_, fun fits => ?_⟩⟩⟩
  · rw [setStationRequest_refused c busy]
  · rw [setStationRequest_badPort setup (stationOfNumber_outside port)]
  · obtain ⟨p, port⟩ := stationOfNumber_within low high
    rw [setStationRequest_badRole setup port (roleOfByte_outside role)]
  · rw [setStationRequest_checked setup port named,
      setStationChecked_outOfRange (windowFailureOf_arrive staffed arrive)]
  · rw [setStationRequest_checked setup port named,
      setStationChecked_outOfRange (windowFailureOf_close staffed arrive close)]
  · rw [setStationRequest_checked setup port named,
      setStationChecked_outOfRange (windowFailureOf_tol staffed arrive close tol)]
  · rw [setStationRequest_checked setup port named, setStationChecked_taken setup (windowFailureOf_eq_none fits),
      stationEntry_eq]

end Sys2Proof.Machine
end

/-! ### SET RULES (R128, R173) -/

section
namespace Sys2Proof.Machine

/-! A check word is read back from its mask (section 12.6). -/

theorem testBit_zero_cons (b : Bool) (m : Nat) : (b.toNat + 2 * m).testBit 0 = b := by
  rw [Nat.testBit_zero]
  cases b <;> simp

theorem testBit_succ_cons (b : Bool) (m i : Nat) : (b.toNat + 2 * m).testBit (i + 1) = m.testBit i := by
  have half : (b.toNat + 2 * m) / 2 = m := by
    cases b <;> simp only [Bool.toNat_true, Bool.toNat_false] <;> omega
  rw [Nat.testBit_succ, half]

theorem testBit_maskOf (bs : List Bool) (i : Nat) : (maskOf bs).testBit i = bs[i]?.getD false := by
  induction bs generalizing i with
  | nil => simp [maskOf]
  | cons b bs ih =>
    cases i with
    | zero => rw [maskOf, testBit_zero_cons, List.getElem?_cons_zero, Option.getD_some]
    | succ i => rw [maskOf, testBit_succ_cons, ih, List.getElem?_cons_succ]

theorem maskOf_lt (bs : List Bool) : maskOf bs < 2 ^ bs.length := by
  induction bs with
  | nil => decide
  | cons b bs ih =>
    rw [maskOf, List.length_cons, Nat.pow_succ]
    cases b <;> simp <;> omega

theorem CheckWord.ext_has {w v : CheckWord} (h : ∀ c, w.has c = v.has c) : w = v := by
  have all := List.map_congr_left (l := allChecks) fun c _ => h c
  cases w
  cases v
  simpa [allChecks, CheckWord.has] using all

/-- The names added one after the other join what the word held. -/
theorem CheckWord.has_foldl_add (l : List (Check × Nat)) (c : Check) : ∀ w : CheckWord,
    (l.foldl (fun w c => w.add c.1) w).has c = true ↔ w.has c = true ∨ ∃ i, (c, i) ∈ l := by
  induction l with
  | nil => simp
  | cons d l ih =>
    obtain ⟨d, k⟩ := d
    intro w
    rw [List.foldl_cons, ih]
    by_cases same : c = d
    · subst same
      simp only [CheckWord.has_add_self, true_or, true_iff]
      exact .inr ⟨k, List.mem_cons_self⟩
    · rw [CheckWord.has_add_of_ne w same]
      simp only [List.mem_cons, Prod.mk.injEq, same, false_and, false_or]

theorem checkMask_lt (w : CheckWord) : checkMask w < 32768 := by
  have below := maskOf_lt (allChecks.map w.has)
  rw [List.length_map, show allChecks.length = 15 from rfl] at below
  exact below

theorem checksOfMask_checkMask (w : CheckWord) : checksOfMask (checkMask w) = some w := by
  have small : checkMask w < 32768 := checkMask_lt w
  rw [checksOfMask, if_pos small, Option.some.injEq]
  refine CheckWord.ext_has fun c => ?_
  rw [Bool.eq_iff_iff, CheckWord.has_foldl_add]
  have empty : ({} : CheckWord).has c = false := by cases c <;> rfl
  rw [empty]
  simp only [Bool.false_eq_true, false_or, List.mem_filter, checkMask, testBit_maskOf]
  constructor
  · rintro ⟨i, place, bit⟩
    rw [List.getElem?_map, (List.mem_zipIdx_iff_getElem?.1 place)] at bit
    exact bit
  · intro held
    obtain ⟨i, place⟩ := List.getElem?_of_mem (mem_allChecks c)
    refine ⟨i, List.mem_zipIdx_iff_getElem?.2 place, ?_⟩
    rw [List.getElem?_map, place]
    exact held

theorem checksOfMask_outside {m : Nat} (outside : 32768 ≤ m) : checksOfMask m = none :=
  if_neg (Nat.not_lt_of_le outside)

theorem testOfByte_outside {n : Nat} (outside : n ≠ 1 ∧ n ≠ 2) : testOfByte n = none :=
  match n, outside with
  | 0, _ => rfl
  | 1, ⟨one, _⟩ => absurd rfl one
  | 2, ⟨_, two⟩ => absurd rfl two
  | _ + 3, _ => rfl

theorem testOfByte_within {n : Nat} (within : n = 1 ∨ n = 2) : ∃ t, testOfByte n = some t := by
  obtain rfl | rfl := within <;> exact ⟨_, rfl⟩

theorem outletOfByte_outside {n : Nat} (outside : n = 0 ∨ 3 < n) : outletOfByte n = none := by
  obtain rfl | above := outside
  · rfl
  · obtain ⟨m, rfl⟩ := Nat.exists_eq_add_of_le' above
    rfl

@[simp] theorem outletOfByte_gateOutletByte (o : GateOutlet) : outletOfByte (gateOutletByte o) = some o := by
  cases o <;> rfl

/-! Rules as carried: read from their bytes and checked in order (R128). -/

/-- A rule as a frame carries it. -/
def VerdictRule.params (r : VerdictRule) : RuleParams :=
  ⟨match r.test with | .any => 1 | .all => 2, checkMask r.mask, gateOutletByte r.outlet⟩

theorem checkRule_params (place : Nat) (r : VerdictRule) : checkRule place r.params = .ok r := by
  obtain ⟨test, mask, outlet⟩ := r
  cases test <;>
    simp only [checkRule, VerdictRule.params, testOfByte, checksOfMask_checkMask, outletOfByte_gateOutletByte]

theorem checkRules_params (rules : List VerdictRule) : ∀ place,
    checkRules place (rules.map VerdictRule.params) = .ok rules := by
  induction rules with
  | nil => exact fun _ => rfl
  | cons r rules ih =>
    intro place
    simp only [List.map_cons, checkRules, checkRule_params, ih]

/-- The first rule that fails is named by its place (R128). -/
theorem checkRules_bad {bad : RuleParams} {e : FieldRef} (more : List RuleParams) (good : List VerdictRule) :
    ∀ place, checkRule (place + good.length) bad = .error e →
      checkRules place (good.map VerdictRule.params ++ bad :: more) = .error e := by
  induction good with
  | nil =>
    intro place fails
    rw [List.length_nil, Nat.add_zero] at fails
    simp only [List.map_nil, List.nil_append, checkRules, fails]
  | cons r good ih =>
    intro place fails
    rw [List.length_cons, Nat.add_comm good.length, ← Nat.add_assoc] at fails
    simp only [List.map_cons, List.cons_append, checkRules, checkRule_params, ih _ fails]

/-- The first of a list of rules, from its four bytes. -/
theorem parseRuleList_bytes {test mask outlet : Nat} (ht : test < 256) (hm : mask < 65536) (ho : outlet < 256) (n : Nat)
    (bs : List Byte) :
    parseRuleList (n + 1) (be1 test ++ be2 mask ++ be1 outlet ++ bs) = ⟨test, mask, outlet⟩ :: parseRuleList n bs := by
  show (⟨fromBytes (be1 test), fromBytes (be2 mask), fromBytes (be1 outlet)⟩ : RuleParams) :: parseRuleList n bs = _
  rw [fromBytes_be1 ht, fromBytes_be2 hm, fromBytes_be1 ho]

theorem parseRuleList_ruleBytes (r : VerdictRule) (n : Nat) (bs : List Byte) :
    parseRuleList (n + 1) (ruleBytes r ++ bs) = r.params :: parseRuleList n bs := by
  obtain ⟨test, mask, outlet⟩ := r
  have carried : checkMask mask < 65536 := Nat.lt_trans (checkMask_lt mask) (by decide)
  have place : gateOutletByte outlet < 256 := by cases outlet <;> decide
  cases test with
  | any => exact parseRuleList_bytes (test := 1) (by decide) carried place n bs
  | all => exact parseRuleList_bytes (test := 2) (by decide) carried place n bs

theorem parseRuleList_rules (rules : List VerdictRule) (n : Nat) (bs : List Byte) :
    parseRuleList (rules.length + n) (rules.flatMap ruleBytes ++ bs) =
      rules.map VerdictRule.params ++ parseRuleList n bs := by
  induction rules with
  | nil => rw [List.length_nil, Nat.zero_add, List.flatMap_nil, List.nil_append, List.map_nil, List.nil_append]
  | cons r rules ih =>
    rw [List.length_cons, Nat.add_right_comm, List.flatMap_cons, List.append_assoc, parseRuleList_ruleBytes, ih,
      List.map_cons, List.cons_append]

theorem length_ruleBytes (rules : List VerdictRule) : (rules.flatMap ruleBytes).length = 4 * rules.length := by
  induction rules with
  | nil => rfl
  | cons r rules ih =>
    have four : (ruleBytes r).length = 4 := rfl
    rw [List.flatMap_cons, List.length_append, four, ih, List.length_cons]
    omega

theorem parseSetRules_bytes {n : Nat} (byte : n < 256) {bs : List Byte} (length : bs.length = 4 * n) :
    parseSetRules (be1 n ++ bs) = some (n, parseRuleList n bs) := by
  show parseSetRules (BitVec.ofNat 8 n :: bs) = _
  have count : (BitVec.ofNat 8 n).toNat = n := by
    rw [BitVec.toNat_ofNat]
    omega
  rw [parseSetRules, count, if_pos length]

theorem exec_setRules {s : State} {f : Frame} {rest : List Frame} {c : Nat × List RuleParams}
    (taking : s.Taking .supervisor f rest) (kind : f.kind = kindSetRules) (read : parseSetRules f.payload = some c) :
    exec .setRules s = .next ((setRulesRequest c s).1.reply .supervisor f rest (setRulesRequest c s).2) :=
  takeSupervisor_parsed taking kind read (setRulesRequest_withPorts c)

theorem setRulesRequest_taken {n : Nat} {rules : List RuleParams} {good : List VerdictRule} (few : n ≤ 8)
    (fits : checkRules 1 rules = .ok good) (s : State) :
    setRulesRequest (n, rules) s = ({ s with verdict := { s.verdict with rules := good } }, ⟨.ok, be1 n⟩) := by
  simp only [setRulesRequest, if_neg (Nat.not_lt_of_le few), fits]

theorem setRulesRequest_many {n : Nat} (many : 8 < n) (rules : List RuleParams) (s : State) :
    setRulesRequest (n, rules) s = (s, .range 1 0) :=
  if_pos many

theorem setRulesRequest_bad {n : Nat} {rules : List RuleParams} {e : FieldRef} (few : n ≤ 8)
    (fails : checkRules 1 rules = .error e) (s : State) :
    setRulesRequest (n, rules) s = (s, .range e.field e.group) := by
  simp only [setRulesRequest, if_neg (Nat.not_lt_of_le few), fails]

/-- Settles O23: a list that is in order, a count above 8, and the first rule that fails after a part in order. -/
theorem setRulesIsTaken : Obligations.SetRulesIsTaken := by
  unfold Obligations.SetRulesIsTaken
  intro s f rest taking kind
  refine ⟨fun rules few payload => ?_, fun n tail many byte length payload => ?_,
    fun n good test mask outlet tail few count whole htest hmask houtlet payload => ?_⟩
  · have read : parseSetRules f.payload = some (rules.length, rules.map VerdictRule.params) := by
      have list := parseRuleList_rules rules 0 []
      rw [Nat.add_zero, List.append_nil, parseRuleList, List.append_nil] at list
      rw [payload, parseSetRules_bytes (by omega) (length_ruleBytes rules), list]
    rw [exec_setRules taking kind read, setRulesRequest_taken few (checkRules_params rules 1)]
  · have read : parseSetRules f.payload = some (n, parseRuleList n tail) := by
      rw [payload, parseSetRules_bytes byte length]
    rw [exec_setRules taking kind read, setRulesRequest_many many]
  · have read : parseSetRules f.payload =
        some (n, good.map VerdictRule.params ++ ⟨test, mask, outlet⟩ :: parseRuleList (tail.length / 4) tail) := by
      have list : parseRuleList n (good.flatMap ruleBytes ++ (be1 test ++ be2 mask ++ be1 outlet ++ tail)) =
          good.map VerdictRule.params ++ ⟨test, mask, outlet⟩ :: parseRuleList (tail.length / 4) tail := by
        rw [count, Nat.add_right_comm, Nat.add_assoc, parseRuleList_rules, parseRuleList_bytes htest hmask houtlet]
      have length : (good.flatMap ruleBytes ++ (be1 test ++ be2 mask ++ be1 outlet ++ tail)).length = 4 * n := by
        simp only [List.length_append, length_ruleBytes, length_be1, length_be2]
        omega
      rw [payload, List.append_assoc, List.append_assoc, parseSetRules_bytes (by omega) length, list]
    have failed : ∀ e, checkRule (1 + good.length) ⟨test, mask, outlet⟩ = .error e →
        exec .setRules s = .next (s.reply .supervisor f rest (.range e.field e.group)) := by
      intro e fails
      rw [exec_setRules taking kind read, setRulesRequest_bad few (checkRules_bad _ good 1 fails)]
    rw [Nat.add_comm 1] at failed
    refine ⟨fun bad => failed ⟨2, good.length + 1⟩ ?_, fun ok bad => failed ⟨3, good.length + 1⟩ ?_,
      fun ok fits bad => failed ⟨4, good.length + 1⟩ ?_⟩
    · simp only [checkRule, testOfByte_outside bad]
    · obtain ⟨t, named⟩ := testOfByte_within ok
      simp only [checkRule, named, checksOfMask_outside bad]
    · obtain ⟨t, named⟩ := testOfByte_within ok
      simp only [checkRule, named, checksOfMask, if_pos fits, outletOfByte_outside bad]

end Sys2Proof.Machine
end

/-! ### The validation of the configuration (R96) -/

section
namespace Sys2Proof.Machine

/-! Each search of the validation gives the port of its condition. -/

theorem eq_none_iff_of_eq_some_iff {α : Type} {x : Option α} {P : α → Prop} (h : ∀ a, x = some a ↔ P a) :
    x = none ↔ ∀ a, ¬P a := by
  simp only [Option.eq_none_iff_forall_ne_some, ne_eq, h]

theorem forall_not_isFirstPort (P : StationPort → Prop) : (∀ q, ¬IsFirstPort P q) ↔ ∀ q, ¬P q := by
  classical
  have first : ∀ q, stationPorts.find? (fun p => decide (P p)) = some q ↔ IsFirstPort P q := fun q =>
    (find_stationPorts_eq_some_iff _ q).trans (IsFirstPort.congr (fun _ => decide_eq_true_iff) q)
  rw [← eq_none_iff_of_eq_some_iff first, find_stationPorts_eq_none_iff]
  exact forall_congr' fun _ => not_congr decide_eq_true_iff

theorem windowOpen_search (t : PerStation Station) (q : StationPort) :
    firstStation t (fun _ e => e.arrive ≤ e.tol) = some q ↔ IsFirstPort (OpensEarly t) q := by
  rw [firstStation_eq_some_iff]
  refine IsFirstPort.congr (fun p => ?_) q
  simp only [decide_eq_true_eq, OpensEarly, IsStaffed, exists_and_right]

theorem windowClose_search (t : PerStation Station) (q : StationPort) :
    firstStation t (fun _ e => e.close < e.arrive + e.tol) = some q ↔ IsFirstPort (ClosesEarly t) q := by
  rw [firstStation_eq_some_iff]
  refine IsFirstPort.congr (fun p => ?_) q
  simp only [decide_eq_true_eq, ClosesEarly, IsStaffed, exists_and_right]

/-- The role of a port that holds it alone. -/
theorem role_eq_iff_of_only {t : PerStation Station} {role : Role} {b : StationPort} (only : portsWith t role = [b])
    (p : StationPort) : (t.get p).role = role ↔ p = b := by
  rw [← mem_portsWith, only, List.mem_singleton]

theorem stationWith_of_only {t : PerStation Station} {role : Role} {b : StationPort} (only : portsWith t role = [b]) :
    stationWith t role = some (t.get b) := by
  rw [stationWith, only]
  rfl

theorem find_eq_some_iff_of_length_le_one {α : Type} {l : List α} (few : l.length ≤ 1) (p : α → Bool) (a : α) :
    l.find? p = some a ↔ a ∈ l ∧ p a = true := by
  match l, few with
  | [], _ => simp
  | [b], _ =>
    rw [List.find?_singleton, List.mem_singleton]
    constructor
    · intro found
      split at found
      next holds => exact Option.some.inj found ▸ ⟨rfl, holds⟩
      next => contradiction
    · rintro ⟨rfl, holds⟩
      exact if_pos holds

/-- Among the ports of a role that at most one port holds, the search of order 9 finds the one after the binder. -/
theorem find_portsWith_eq_some_iff {t : PerStation Station} {r : StationRole} {b : StationPort}
    (few : roleCount t (.station r) ≤ 1) (binder : portsWith t (.station .binder) = [b]) (q : StationPort) :
    ((portsWith t (.station r)).find? fun p => (t.get b).arrive ≤ (t.get p).arrive) = some q ↔ FollowsBinder t r q := by
  rw [find_eq_some_iff_of_length_le_one few, mem_portsWith, decide_eq_true_eq]
  simp only [FollowsBinder, role_eq_iff_of_only binder, exists_eq_left]

theorem finishOrder_search {t : PerStation Station} (punch : roleCount t (.station .punch) = 1)
    (notch : roleCount t (.station .notch) ≤ 1) (drill : roleCount t (.station .drill) ≤ 1)
    (binder : roleCount t (.station .binder) = 1) (q : StationPort) :
    finishOrderFailure t = some q ↔ FollowsBinder t .punch q ∨
      (FollowsBinder t .notch q ∧ ∀ a, ¬FollowsBinder t .punch a) ∨
      (FollowsBinder t .drill q ∧ ∀ a, ¬FollowsBinder t .punch a ∧ ¬FollowsBinder t .notch a) := by
  obtain ⟨b, only⟩ := List.length_eq_one_iff.1 binder
  have ofPunch := find_portsWith_eq_some_iff (Nat.le_of_eq punch) only
  have ofNotch := find_portsWith_eq_some_iff notch only
  have ofDrill := find_portsWith_eq_some_iff drill only
  simp only [finishOrderFailure, stationWith_of_only only, List.flatMap_cons, List.flatMap_nil, List.append_nil,
    List.find?_append, Option.or_eq_some_iff, ofPunch, ofNotch, ofDrill, eq_none_iff_of_eq_some_iff ofPunch,
    eq_none_iff_of_eq_some_iff ofNotch, forall_and]
  constructor
  · rintro (punch | ⟨noPunch, notch | ⟨noNotch, drill⟩⟩)
    · exact .inl punch
    · exact .inr (.inl ⟨notch, noPunch⟩)
    · exact .inr (.inr ⟨drill, noPunch, noNotch⟩)
  · rintro (punch | ⟨notch, noPunch⟩ | ⟨drill, noPunch, noNotch⟩)
    · exact .inl punch
    · exact .inr ⟨noPunch, .inl notch⟩
    · exact .inr ⟨noPunch, .inr ⟨noNotch, drill⟩⟩

theorem gateClearance_search {t : PerStation Station} (gate : roleCount t (.station .gate) = 1) (q : StationPort) :
    gateClearanceFailure t = some q ↔ IsFirstPort (ReachesGate t) q := by
  obtain ⟨g, only⟩ := List.length_eq_one_iff.1 gate
  simp only [gateClearanceFailure, stationWith_of_only only]
  rw [firstStation_eq_some_iff]
  refine IsFirstPort.congr (fun p => ?_) q
  simp only [ReachesGate, role_eq_iff_of_only only, Bool.and_eq_true, bne_iff_ne, decide_eq_true_eq]
  constructor
  · rintro ⟨r, role, before, reaches⟩
    exact ⟨r, g, before, role, rfl, by omega⟩
  · rintro ⟨r, h, before, role, rfl, reaches⟩
    exact ⟨r, role, before, by omega⟩

/-! The conditions on role counts, said of the counts. -/

/-- No condition of orders 1 to 6 fails. -/
structure CountsFit (t : PerStation Station) : Prop where
  collator : roleCount t .collator = 1
  punch : roleCount t (.station .punch) = 1
  binder : roleCount t (.station .binder) = 1
  gate : roleCount t (.station .gate) = 1
  notch : roleCount t (.station .notch) ≤ 1
  drill : roleCount t (.station .drill) ≤ 1

theorem CountsFit.countFailure {t : PerStation Station} (fit : CountsFit t) : countFailure t = none := by
  simp [Machine.countFailure, fit.collator, fit.punch, fit.binder, fit.gate, Nat.not_lt_of_le fit.notch,
    Nat.not_lt_of_le fit.drill]

/-- No condition of the configuration fails before the result's (R96). -/
def FitsBefore (t : PerStation Station) (c : LineConfig) (result : ConfigResult) : Prop :=
  ∀ before other, configResultByte before < configResultByte result → ¬ConfigFails t c before other

section
variable {t : PerStation Station} {c : LineConfig} {r : ConfigResult}

theorem FitsBefore.collator (fits : FitsBefore t c r) (past : 1 < configResultByte r) : roleCount t .collator = 1 :=
  Classical.not_not.1 fun bad => fits .collatorCount none past ⟨rfl, bad⟩

theorem FitsBefore.punch (fits : FitsBefore t c r) (past : 2 < configResultByte r) :
    roleCount t (.station .punch) = 1 :=
  Classical.not_not.1 fun bad => fits .punchCount none past ⟨rfl, bad⟩

theorem FitsBefore.binder (fits : FitsBefore t c r) (past : 3 < configResultByte r) :
    roleCount t (.station .binder) = 1 :=
  Classical.not_not.1 fun bad => fits .binderCount none past ⟨rfl, bad⟩

theorem FitsBefore.gate (fits : FitsBefore t c r) (past : 4 < configResultByte r) :
    roleCount t (.station .gate) = 1 :=
  Classical.not_not.1 fun bad => fits .gateCount none past ⟨rfl, bad⟩

theorem FitsBefore.notch (fits : FitsBefore t c r) (past : 5 < configResultByte r) :
    roleCount t (.station .notch) ≤ 1 :=
  Nat.le_of_not_lt fun bad => fits .notchCount none past ⟨rfl, bad⟩

theorem FitsBefore.drill (fits : FitsBefore t c r) (past : 6 < configResultByte r) :
    roleCount t (.station .drill) ≤ 1 :=
  Nat.le_of_not_lt fun bad => fits .drillCount none past ⟨rfl, bad⟩

theorem FitsBefore.countsFit (fits : FitsBefore t c r) (past : 6 < configResultByte r) : CountsFit t :=
  ⟨fits.collator (by omega), fits.punch (by omega), fits.binder (by omega), fits.gate (by omega),
    fits.notch (by omega), fits.drill past⟩

theorem FitsBefore.windowOpen (fits : FitsBefore t c r) (past : 7 < configResultByte r) :
    firstStation t (fun _ e => e.arrive ≤ e.tol) = none :=
  (eq_none_iff_of_eq_some_iff (windowOpen_search t)).2 fun q bad => fits .windowOpen (some q) past ⟨q, rfl, bad⟩

theorem FitsBefore.windowClose (fits : FitsBefore t c r) (past : 8 < configResultByte r) :
    firstStation t (fun _ e => e.close < e.arrive + e.tol) = none :=
  (eq_none_iff_of_eq_some_iff (windowClose_search t)).2 fun q bad => fits .windowClose (some q) past ⟨q, rfl, bad⟩

theorem CountsFit.finishOrder_search (fit : CountsFit t) (q : StationPort) :
    finishOrderFailure t = some q ↔ ConfigFails t c .finishOrder (some q) := by
  rw [Machine.finishOrder_search fit.punch fit.notch fit.drill fit.binder]
  simp only [ConfigFails, Option.some.injEq, exists_eq_left']

theorem FitsBefore.finishOrder (fits : FitsBefore t c r) (past : 9 < configResultByte r) :
    finishOrderFailure t = none :=
  (eq_none_iff_of_eq_some_iff (fits.countsFit (by omega)).finishOrder_search).2 fun q => fits .finishOrder (some q) past

theorem FitsBefore.gateClearance (fits : FitsBefore t c r) (past : 10 < configResultByte r) :
    gateClearanceFailure t = none :=
  (eq_none_iff_of_eq_some_iff (gateClearance_search (fits.gate (by omega)))).2 fun q bad =>
    fits .gateClearance (some q) past ⟨q, rfl, bad⟩

end

/-- With a port of role GATE, the spacing exceeds twice the largest tolerance exactly if it is not short (order 11). -/
theorem CountsFit.le_largestTol_iff {t : PerStation Station} (fit : CountsFit t) (c : LineConfig) :
    c.spacing ≤ 2 * largestTol t ↔ SpacingShort t c := by
  obtain ⟨g, only⟩ := List.length_eq_one_iff.1 fit.gate
  have gate : IsStaffed t g := ⟨.gate, (role_eq_iff_of_only only g).2 rfl⟩
  rw [Machine.le_largestTol_iff]
  constructor
  · rintro (zero | short)
    · exact ⟨g, gate, zero ▸ Nat.zero_le _⟩
    · exact short
  · exact .inr

/-- Validation gives the condition that fails where none before it does. -/
theorem validate_of_fails {t : PerStation Station} {c : LineConfig} {r : ConfigResult} {p : Option StationPort}
    (fails : ConfigFails t c r p) (fits : FitsBefore t c r) : validate t c = ⟨r, p⟩ := by
  have counts : 6 < configResultByte r → countFailure t = none := fun past => (fits.countsFit past).countFailure
  cases r with
  | ok => exact fails.elim
  | collatorCount =>
    obtain ⟨rfl, bad⟩ := fails
    have bad : roleCount t .collator ≠ 1 := bad
    simp [validate, countFailure, bad]
  | punchCount =>
    obtain ⟨rfl, bad⟩ := fails
    have bad : roleCount t (.station .punch) ≠ 1 := bad
    simp [validate, countFailure, fits.collator (by decide), bad]
  | binderCount =>
    obtain ⟨rfl, bad⟩ := fails
    have bad : roleCount t (.station .binder) ≠ 1 := bad
    simp [validate, countFailure, fits.collator (by decide), fits.punch (by decide), bad]
  | gateCount =>
    obtain ⟨rfl, bad⟩ := fails
    have bad : roleCount t (.station .gate) ≠ 1 := bad
    simp [validate, countFailure, fits.collator (by decide), fits.punch (by decide), fits.binder (by decide), bad]
  | notchCount =>
    obtain ⟨rfl, bad⟩ := fails
    have bad : 1 < roleCount t (.station .notch) := bad
    simp [validate, countFailure, fits.collator (by decide), fits.punch (by decide), fits.binder (by decide),
      fits.gate (by decide), bad]
  | drillCount =>
    obtain ⟨rfl, bad⟩ := fails
    have bad : 1 < roleCount t (.station .drill) := bad
    simp [validate, countFailure, fits.collator (by decide), fits.punch (by decide), fits.binder (by decide),
      fits.gate (by decide),
      Nat.not_lt_of_le (fits.notch (by decide)), bad]
  | windowOpen =>
    obtain ⟨q, rfl, bad⟩ := fails
    simp only [validate, counts (by decide), windowFailure, (windowOpen_search t q).2 bad]
  | windowClose =>
    obtain ⟨q, rfl, bad⟩ := fails
    simp only [validate, counts (by decide), windowFailure, fits.windowOpen (by decide),
      (windowClose_search t q).2 bad]
  | finishOrder =>
    have fit := fits.countsFit (by decide)
    have fails' := fails
    obtain ⟨q, rfl, -⟩ := fails'
    simp only [validate, counts (by decide), windowFailure, fits.windowOpen (by decide), fits.windowClose (by decide),
      (fit.finishOrder_search q).2 fails]
  | gateClearance =>
    obtain ⟨q, rfl, bad⟩ := fails
    simp only [validate, counts (by decide), windowFailure, fits.windowOpen (by decide), fits.windowClose (by decide),
      fits.finishOrder (by decide), (gateClearance_search (fits.gate (by decide)) q).2 bad, Option.map_some]
  | spacing =>
    obtain ⟨rfl, bad⟩ := fails
    have short := ((fits.countsFit (by decide)).le_largestTol_iff c).2 bad
    simp only [validate, counts (by decide), windowFailure, fits.windowOpen (by decide), fits.windowClose (by decide),
      fits.finishOrder (by decide), fits.gateClearance (by decide), Option.map_none, if_pos short]

/-- Validation gives OK where no condition fails. -/
theorem validate_of_fits {t : PerStation Station} {c : LineConfig} (none : ∀ result port, ¬ConfigFails t c result port) :
    validate t c = ⟨.ok, .none⟩ := by
  have fits : FitsBefore t c .spacing := fun before other _ => none before other
  have counts := fits.countsFit (by decide)
  have wide : ¬c.spacing ≤ 2 * largestTol t := fun short =>
    none .spacing .none ⟨rfl, (counts.le_largestTol_iff c).1 short⟩
  simp only [validate, counts.countFailure, windowFailure, fits.windowOpen (by decide), fits.windowClose (by decide),
    fits.finishOrder (by decide), fits.gateClearance (by decide), Option.map_none, if_neg wide]

/-- Either no condition fails, or there is a first that does. -/
theorem fits_or_first_fails (t : PerStation Station) (c : LineConfig) :
    (∀ result port, ¬ConfigFails t c result port) ∨ ∃ result port, ConfigFails t c result port ∧ FitsBefore t c result := by
  refine Classical.byContradiction fun neither => ?_
  obtain ⟨fails, noFirst⟩ := not_or.1 neither
  refine fails fun result => ?_
  induction place : configResultByte result using Nat.strongRecOn generalizing result with
  | ind n ih =>
    intro port bad
    exact noFirst ⟨result, port, bad, fun before other smaller => ih _ (place ▸ smaller) before rfl other⟩

theorem ConfigFails.ne_ok {t : PerStation Station} {c : LineConfig} {r : ConfigResult} {p : Option StationPort}
    (fails : ConfigFails t c r p) : r ≠ .ok := by
  rintro rfl
  exact fails

theorem validate_result_eq_ok_iff (t : PerStation Station) (c : LineConfig) :
    (validate t c).result = .ok ↔ ∀ result port, ¬ConfigFails t c result port := by
  constructor
  · intro ok
    refine (fits_or_first_fails t c).resolve_right ?_
    rintro ⟨r, p, fails, fits⟩
    rw [validate_of_fails fails fits] at ok
    exact fails.ne_ok ok
  · intro fits
    rw [validate_of_fits fits]

theorem validate_eq_iff (t : PerStation Station) (c : LineConfig) {r : ConfigResult} (bad : r ≠ .ok)
    (p : Option StationPort) : validate t c = ⟨r, p⟩ ↔ ConfigFails t c r p ∧ FitsBefore t c r := by
  constructor
  · intro given
    obtain none | ⟨r', p', fails, fits⟩ := fits_or_first_fails t c
    · rw [validate_of_fits none] at given
      exact absurd (congrArg Validation.result given).symm bad
    · rw [validate_of_fails fails fits] at given
      obtain ⟨rfl, rfl⟩ := Validation.mk.inj given
      exact ⟨fails, fits⟩
  · rintro ⟨fails, fits⟩
    exact validate_of_fails fails fits

/-- What a configuration that no condition fails is, said of the station table (R96). -/
theorem noneFails_iff (t : PerStation Station) (c : LineConfig) :
    (∀ result port, ¬ConfigFails t c result port) ↔
      CountsFit t ∧ (∀ p, ¬OpensEarly t p) ∧ (∀ p, ¬ClosesEarly t p) ∧
        (∀ p r, r = .punch ∨ r = .notch ∨ r = .drill → ¬FollowsBinder t r p) ∧ (∀ p, ¬ReachesGate t p) ∧
        ¬SpacingShort t c := by
  constructor
  · intro fits
    have before : FitsBefore t c .spacing := fun r p _ => fits r p
    refine ⟨before.countsFit (by decide), (forall_not_isFirstPort _).1 fun q bad => fits .windowOpen _ ⟨q, rfl, bad⟩,
      (forall_not_isFirstPort _).1 fun q bad => fits .windowClose _ ⟨q, rfl, bad⟩, ?_,
      (forall_not_isFirstPort _).1 fun q bad => fits .gateClearance _ ⟨q, rfl, bad⟩,
      fun short => fits .spacing none ⟨rfl, short⟩⟩
    have punch : ∀ q, ¬FollowsBinder t .punch q := fun q bad => fits .finishOrder _ ⟨q, rfl, .inl bad⟩
    have notch : ∀ q, ¬FollowsBinder t .notch q := fun q bad =>
      fits .finishOrder _ ⟨q, rfl, .inr (.inl ⟨bad, punch⟩)⟩
    have drill : ∀ q, ¬FollowsBinder t .drill q := fun q bad =>
      fits .finishOrder _ ⟨q, rfl, .inr (.inr ⟨bad, fun a => ⟨punch a, notch a⟩⟩)⟩
    rintro p r (rfl | rfl | rfl)
    · exact punch p
    · exact notch p
    · exact drill p
  · rintro ⟨counts, opens, closes, order, gate, spacing⟩ result port fails
    cases result with
    | ok => exact fails
    | collatorCount => exact fails.2 counts.collator
    | punchCount => exact fails.2 counts.punch
    | binderCount => exact fails.2 counts.binder
    | gateCount => exact fails.2 counts.gate
    | notchCount => exact Nat.not_lt_of_le counts.notch fails.2
    | drillCount => exact Nat.not_lt_of_le counts.drill fails.2
    | windowOpen =>
      obtain ⟨q, -, bad⟩ := fails
      exact opens q bad.1
    | windowClose =>
      obtain ⟨q, -, bad⟩ := fails
      exact closes q bad.1
    | finishOrder =>
      obtain ⟨q, -, bad | ⟨bad, -⟩ | ⟨bad, -⟩⟩ := fails
      · exact order q .punch (.inl rfl) bad
      · exact order q .notch (.inr (.inl rfl)) bad
      · exact order q .drill (.inr (.inr rfl)) bad
    | gateClearance =>
      obtain ⟨q, -, bad⟩ := fails
      exact gate q bad.1
    | spacing => exact spacing fails.2

/-- Settles O24: the order's first failing condition is the result, and no condition fails for OK alone. -/
theorem validConfigurationFailsNoCondition : Obligations.ValidConfigurationFailsNoCondition := by
  unfold Obligations.ValidConfigurationFailsNoCondition
  refine ⟨fun t c => ?_, fun t c => ⟨?_, fun result port bad => validate_eq_iff t c bad port⟩⟩
  · rw [validate_result_eq_ok_iff, noneFails_iff]
    constructor
    · rintro ⟨counts, opens, closes, order, gate, spacing⟩
      refine ⟨counts.collator, counts.punch, counts.binder, counts.gate, counts.notch, counts.drill, fun p r role =>
        ⟨Nat.lt_of_not_le fun bad => opens p ⟨⟨r, role⟩, bad⟩, Nat.le_of_not_lt fun bad => closes p ⟨⟨r, role⟩, bad⟩,
          Nat.lt_of_not_le fun bad => spacing ⟨p, ⟨r, role⟩, bad⟩, fun b binder finishes =>
          Nat.lt_of_not_le fun bad => order p r finishes ⟨role, b, binder, bad⟩, fun g ofGate before =>
          Nat.le_of_not_lt fun bad => gate p ⟨r, g, before, role, ofGate, bad⟩⟩⟩
    · rintro ⟨collator, punch, binder, gate, notch, drill, windows⟩
      refine ⟨⟨collator, punch, binder, gate, notch, drill⟩, ?_, ?_, ?_, ?_, ?_⟩
      · rintro p ⟨⟨r, role⟩, bad⟩
        exact Nat.not_le_of_lt (windows p r role).1 bad
      · rintro p ⟨⟨r, role⟩, bad⟩
        exact Nat.not_lt_of_le (windows p r role).2.1 bad
      · rintro p r finishes ⟨role, b, ofBinder, bad⟩
        obtain ⟨-, -, -, order, -⟩ := windows p r role
        exact Nat.not_le_of_lt (order b ofBinder finishes) bad
      · rintro p ⟨r, g, before, role, ofGate, bad⟩
        obtain ⟨-, -, -, -, clear⟩ := windows p r role
        exact Nat.not_lt_of_le (clear g ofGate before) bad
      · rintro ⟨p, ⟨r, role⟩, bad⟩
        obtain ⟨-, -, spacing, -⟩ := windows p r role
        exact Nat.not_le_of_lt spacing bad
  · rw [← validate_result_eq_ok_iff]
    constructor
    · intro given
      rw [given]
    · intro ok
      exact validate_of_fits ((validate_result_eq_ok_iff t c).1 ok)

end Sys2Proof.Machine
end

/-! ### The recipe store (R153, R156 to R160) -/

section
namespace Sys2Proof.Machine

theorem storeSlotOfNumber_outside {n : Nat} (outside : n = 0 ∨ 16 < n) : storeSlotOfNumber n = none :=
  dif_neg (by omega)

@[simp] theorem storeSlotOfNumber_succ (i : Fin 16) : storeSlotOfNumber (i.val + 1) = some i :=
  dif_pos ⟨Nat.le_add_left 1 _, i.isLt⟩

theorem storeRequest_fails {r : Recipe} {e : FieldRef} (fails : rangeFailure r = some e) (i : Fin 16) (s : State) :
    storeRequest (i.val + 1, r) s = (s, .range e.field e.group) := by
  simp only [storeRequest, storeSlotOfNumber_succ, fails]

theorem storeRequest_busy {r : Recipe} {s : State} (fits : rangeFailure r = none) (busy : s.store.cycle ≠ none)
    (i : Fin 16) : storeRequest (i.val + 1, r) s = (s, .bare .busy) := by
  simp only [storeRequest, storeSlotOfNumber_succ, fits, if_pos (Option.isSome_iff_ne_none.2 busy)]

theorem storeRequest_taken {r : Recipe} {s : State} (fits : rangeFailure r = none) (idle : s.store.cycle = none)
    (i : Fin 16) :
    storeRequest (i.val + 1, r) s =
      ({ s with store := s.store.begin (.store r) i }, ⟨.ok, be1 (i.val + 1)⟩) := by
  simp only [storeRequest, storeSlotOfNumber_succ, fits, idle, Option.isSome_none, Bool.false_eq_true, if_false]

theorem storeRequest_outside {n : Nat} (outside : n = 0 ∨ 16 < n) (r : Recipe) (s : State) :
    storeRequest (n, r) s = (s, .range 0 0) := by
  simp only [storeRequest, storeSlotOfNumber_outside outside]

theorem eraseRequest_slot (i : Fin 16) (s : State) :
    eraseRequest (i.val + 1) s =
      if s.store.cycle.isSome then (s, .bare .busy)
      else ({ s with store := s.store.begin .erase i }, ⟨.ok, be1 (i.val + 1)⟩) := by
  simp only [eraseRequest, storeSlotOfNumber_succ]

theorem eraseRequest_outside {n : Nat} (outside : n = 0 ∨ 16 < n) (s : State) :
    eraseRequest n s = (s, .range 0 0) := by
  simp only [eraseRequest, storeSlotOfNumber_outside outside]

theorem exec_store {s : State} {f : Frame} {rest : List Frame} {n : Nat} {r : Recipe}
    (taking : s.Taking .supervisor f rest) (kind : f.kind = kindStore) (payload : f.payload = be1 n ++ recipeBytes r)
    (byte : n < 256) (carried : r.fitsLayout = true) :
    exec .store s = .next ((storeRequest (n, r) s).1.reply .supervisor f rest (storeRequest (n, r) s).2) :=
  takeSupervisor_parsed taking kind (payload ▸ parseStore_bytes byte carried) (storeRequest_withPorts (n, r))

theorem exec_erase {s : State} {f : Frame} {rest : List Frame} {n : Nat} (taking : s.Taking .supervisor f rest)
    (kind : f.kind = kindErase) (payload : f.payload = be1 n) (byte : n < 256) :
    exec .erase s = .next ((eraseRequest n s).1.reply .supervisor f rest (eraseRequest n s).2) :=
  takeSupervisor_parsed taking kind (payload ▸ parseByte_be1 byte) (eraseRequest_withPorts n)

theorem exec_readRecipe {s : State} {f : Frame} {rest : List Frame} {n : Nat} (taking : s.Taking .supervisor f rest)
    (kind : f.kind = kindReadRecipe) (payload : f.payload = be1 n) (byte : n < 256) :
    exec .readRecipe s = .next ((readRecipeRequest n s).1.reply .supervisor f rest (readRecipeRequest n s).2) :=
  takeSupervisor_parsed taking kind (payload ▸ parseByte_be1 byte) (readRecipeRequest_withPorts n)

/-- Settles O25: each refusal and the cycle's begin, for STORE and for ERASE. -/
theorem storeAndEraseBeginACycle : Obligations.StoreAndEraseBeginACycle := by
  unfold Obligations.StoreAndEraseBeginACycle
  constructor
  · intro s f rest n r taking kind payload byte carried
    rw [exec_store taking kind payload byte carried]
    refine ⟨fun outside => ?_, ?_⟩
    · rw [storeRequest_outside outside]
    · rintro i rfl
      refine ⟨fun e fails => ?_, fun fits busy => ?_, fun fits idle => ?_⟩
      · rw [storeRequest_fails fails]
      · rw [storeRequest_busy fits busy]
      · rw [storeRequest_taken fits idle, RecipeStore.begin, RecipeStore.setSlot]
  · intro s f rest n taking kind payload byte
    rw [exec_erase taking kind payload byte]
    refine ⟨fun outside => ?_, ?_⟩
    · rw [eraseRequest_outside outside]
    · rintro i rfl
      rw [eraseRequest_slot]
      refine ⟨fun busy => ?_, fun idle => ?_⟩
      · rw [if_pos (Option.isSome_iff_ne_none.2 busy)]
      · rw [idle]
        rfl

/-! A program cycle ends as what is read back says (R158). -/

theorem execProgramCycleEnd_of_cycle {s : State} {c : ProgramCycle} (inFlight : s.store.cycle = some c) (b : ReadBack) :
    execProgramCycleEnd b s =
      .next ({ s with store := s.store.finish c b, line := { s.line with storeEnd := true } } : State).driveAttn := by
  simp only [execProgramCycleEnd, inFlight]

theorem cycleEnd_agrees {b : ReadBack} {copy : Recipe} (agrees : b = .asCarried ∨ b = .record copy) :
    cycleEnd b (.store copy) = (.valid copy, .valid) := by
  obtain rfl | rfl := agrees
  · rfl
  · exact if_pos (beq_self_eq_true copy)

theorem cycleEnd_differs {r copy : Recipe} (differs : r ≠ copy) :
    cycleEnd (.record r) (.store copy) = (.corrupt, .corrupt) :=
  if_neg (mt beq_iff_eq.1 differs)

/-- Settles O26: the three ends of a cycle, and none without a cycle. -/
theorem programCycleEndsInItsSlot : Obligations.ProgramCycleEndsInItsSlot := by
  unfold Obligations.ProgramCycleEndsInItsSlot
  intro s b
  have whole : exec (.programCycleEnd b) s = execProgramCycleEnd b s := rfl
  rw [whole]
  refine ⟨fun copy i inFlight => ⟨fun agrees => ?_, ?_⟩, fun i inFlight => ?_, fun idle => ?_⟩
  · rw [execProgramCycleEnd_of_cycle inFlight]
    simp only [RecipeStore.finish, RecipeStore.setSlot, cycleEnd_agrees agrees, CycleKind.name]
  · rintro r rfl differs
    rw [execProgramCycleEnd_of_cycle inFlight]
    simp only [RecipeStore.finish, RecipeStore.setSlot, cycleEnd_differs differs, CycleKind.name]
  · rw [execProgramCycleEnd_of_cycle inFlight]
    rfl
  · simp only [execProgramCycleEnd, idle]

/-- Settles O27: the answers by the state of the store and of the slot. -/
theorem readRecipeAnswersTheSlot : Obligations.ReadRecipeAnswersTheSlot := by
  unfold Obligations.ReadRecipeAnswersTheSlot
  intro s f rest n taking kind payload byte
  rw [exec_readRecipe taking kind payload byte]
  refine ⟨fun outside => ?_, ?_⟩
  · simp only [readRecipeRequest, storeSlotOfNumber_outside outside]
  · rintro i rfl
    simp only [readRecipeRequest, storeSlotOfNumber_succ]
    refine ⟨fun busy => ?_, fun idle => ⟨fun empty => ?_, fun corrupt => ?_, fun r valid => ?_⟩⟩
    · simp only [if_pos (Option.isSome_iff_ne_none.2 busy)]
    · simp only [idle, empty, Option.isSome_none, Bool.false_eq_true, if_false]
    · simp only [idle, corrupt, Option.isSome_none, Bool.false_eq_true, if_false]
    · simp only [idle, valid, Option.isSome_none, Bool.false_eq_true, if_false]

end Sys2Proof.Machine
end

/-! ### STAGE and STAGE INLINE (R57, R79 to R81) -/

section
namespace Sys2Proof.Machine

theorem PlanUnit.targetSlot_eq (u : PlanUnit) :
    u.targetSlot =
      if u.slotA.isStaged then some .a
      else if u.slotB.isStaged then some .b
      else if u.slotA.isFree then some .a
      else if u.slotB.isFree then some .b
      else none := by
  unfold PlanUnit.targetSlot PlanUnit.stagedSlot PlanUnit.findSlot
  cases u.slotA.isStaged <;> cases u.slotB.isStaged <;> rfl

theorem PlanUnit.targetSlot_eq_some_iff (u : PlanUnit) (i : SlotId) : u.targetSlot = some i ↔ u.IsTarget i := by
  rw [PlanUnit.targetSlot_eq]
  cases i with
  | a =>
    simp only [PlanUnit.IsTarget]
    grind
  | b =>
    simp only [PlanUnit.IsTarget]
    grind

theorem PlanUnit.targetSlot_eq_none {u : PlanUnit} (none : ¬u.IsTarget .a ∧ ¬u.IsTarget .b) :
    u.targetSlot = .none := by
  rw [eq_none_iff_of_eq_some_iff u.targetSlot_eq_some_iff]
  rintro (_ | _)
  · exact none.1
  · exact none.2

theorem State.stageInto_error {s : State} {r : Recipe} {e : StageError}
    (fails : computePlan r s.plan.die s.tracker.stations = .error e) (i : SlotId) (source : Source) :
    s.stageInto i r source = (s, e.answer) := by
  simp only [State.stageInto, fails]

theorem State.stageInto_ok {s : State} {r : Recipe} {plan : HolePlan}
    (fits : computePlan r s.plan.die s.tracker.stations = .ok plan) (i : SlotId) (source : Source) :
    s.stageInto i r source =
      (s.setSlot i (.staged ⟨r, plan, source, r.target, 0, ⟨0, 0, 0, 0, 0, 0⟩⟩),
        ⟨.ok, be1 (slotIdByte i) ++ be1 plan.holes ++ beBool plan.clamped⟩) := by
  simp only [State.stageInto, fits]
  rfl

theorem stageRequest_slot {s : State} (configured : s.line.state ≠ .unconfigured) (i : Fin 16) :
    stageRequest (i.val + 1) s = stageStoreSlot (i.val + 1) i s := by
  simp only [stageRequest, if_neg configured, storeSlotOfNumber_succ]

/-- STAGE once the target slot and the store are free to it: what the slot holds (R79, tests 5 and 6). -/
theorem stageStoreSlot_valid {s : State} {t : SlotId} {i : Fin 16} {r : Recipe} (target : s.plan.IsTarget t)
    (ready : s.store.cycle = none) (valid : s.store.slots[i] = .valid r) (n : Nat) :
    stageStoreSlot n i s = s.stageInto t r (.store n) := by
  simp only [stageStoreSlot, (PlanUnit.targetSlot_eq_some_iff _ _).2 target, ready, valid, Option.isSome_none,
    Bool.false_eq_true, if_false]

theorem stageStoreSlot_empty {s : State} {t : SlotId} {i : Fin 16} (target : s.plan.IsTarget t)
    (ready : s.store.cycle = none) (empty : s.store.slots[i] = .empty) (n : Nat) :
    stageStoreSlot n i s = (s, .bare .empty) := by
  simp only [stageStoreSlot, (PlanUnit.targetSlot_eq_some_iff _ _).2 target, ready, empty, Option.isSome_none,
    Bool.false_eq_true, if_false]

theorem stageStoreSlot_corrupt {s : State} {t : SlotId} {i : Fin 16} (target : s.plan.IsTarget t)
    (ready : s.store.cycle = none) (corrupt : s.store.slots[i] = .corrupt) (n : Nat) :
    stageStoreSlot n i s = (s, .bare .corrupt) := by
  simp only [stageStoreSlot, (PlanUnit.targetSlot_eq_some_iff _ _).2 target, ready, corrupt, Option.isSome_none,
    Bool.false_eq_true, if_false]

theorem exec_stage {s : State} {f : Frame} {rest : List Frame} {n : Nat} (taking : s.Taking .supervisor f rest)
    (kind : f.kind = kindStage) (payload : f.payload = be1 n) (byte : n < 256) :
    exec .stage s = .next ((stageRequest n s).1.reply .supervisor f rest (stageRequest n s).2) :=
  takeSupervisor_parsed taking kind (payload ▸ parseByte_be1 byte) (stageRequest_withPorts n)

theorem exec_stageInline {s : State} {f : Frame} {rest : List Frame} {r : Recipe} (taking : s.Taking .supervisor f rest)
    (kind : f.kind = kindStageInline) (payload : f.payload = recipeBytes r) (carried : r.fitsLayout = true) :
    exec .stageInline s =
      .next ((stageInlineRequest r s).1.reply .supervisor f rest (stageInlineRequest r s).2) :=
  takeSupervisor_parsed taking kind (payload ▸ parseRecipe_recipeBytes carried) (stageInlineRequest_withPorts r)

/-- Settles O28: the tests of R79 in order, then the computation's result. -/
theorem stagingFillsTheTargetSlot : Obligations.StagingFillsTheTargetSlot := by
  unfold Obligations.StagingFillsTheTargetSlot
  constructor
  · intro s f rest n taking kind payload byte
    rw [exec_stage taking kind payload byte]
    refine ⟨fun unconfigured => ?_, fun configured => ⟨fun outside => ?_, ?_⟩⟩
    · simp only [stageRequest, if_pos unconfigured]
    · simp only [stageRequest, if_neg configured, storeSlotOfNumber_outside outside]
    · rintro i rfl
      rw [stageRequest_slot configured]
      refine ⟨fun none => ?_, fun slot target => ⟨fun busy => ?_, fun ready => ?_⟩⟩
      · simp only [stageStoreSlot, PlanUnit.targetSlot_eq_none none]
      · simp only [stageStoreSlot, (PlanUnit.targetSlot_eq_some_iff _ _).2 target,
          if_pos (Option.isSome_iff_ne_none.2 busy)]
      · refine ⟨fun empty => ?_, fun corrupt => ?_, fun r valid => ⟨fun e fails => ?_, fun plan fits => ?_⟩⟩
        · rw [stageStoreSlot_empty target ready empty]
        · rw [stageStoreSlot_corrupt target ready corrupt]
        · rw [stageStoreSlot_valid target ready valid, State.stageInto_error fails]
        · rw [stageStoreSlot_valid target ready valid, State.stageInto_ok fits]
  · intro s f rest r taking kind payload carried
    rw [exec_stageInline taking kind payload carried]
    refine ⟨fun unconfigured => ?_, fun configured => ⟨fun none => ?_, fun slot target =>
      ⟨fun e fails => ?_, fun plan fits => ?_⟩⟩⟩
    · simp only [stageInlineRequest, if_pos unconfigured]
    · simp only [stageInlineRequest, if_neg configured, PlanUnit.targetSlot_eq_none none]
    · simp only [stageInlineRequest, if_neg configured, (PlanUnit.targetSlot_eq_some_iff _ _).2 target,
        State.stageInto_error fails]
    · simp only [stageInlineRequest, if_neg configured, (PlanUnit.targetSlot_eq_some_iff _ _).2 target,
        State.stageInto_ok fits]

end Sys2Proof.Machine
end

/-! ### CHANGEOVER (R83 to R85) -/

section
namespace Sys2Proof.Machine

theorem PlanSlot.makeCurrent_displace_of_unstaged {x : PlanSlot} (unstaged : x.isStaged = false) (n : Nat) :
    x.displace.makeCurrent n = x.displace := by
  cases x with
  | free | draining => rfl
  | staged => cases unstaged
  | current m j =>
    simp only [PlanSlot.displace]
    split <;> rfl

/-- Where a changeover moves a configured line to. -/
def LineState.atChangeover : LineState → LineState
  | .halt _ => .halt .run
  | _ => .run

theorem LineControl.changeover_eq {l : LineControl} (configured : l.state ≠ .unconfigured) :
    l.changeover = { l with state := l.state.atChangeover } := by
  unfold LineControl.changeover
  cases state : l.state with
  | unconfigured => exact absurd state configured
  | idle | run | drain | halt => rfl

theorem changeoverRequest_refused {s : State}
    (refused : s.line.state = .unconfigured ∨ (s.plan.slotA.isStaged = false ∧ s.plan.slotB.isStaged = false)) :
    changeoverRequest () s = (s, .bare .state) := by
  by_cases unconfigured : s.line.state = .unconfigured
  · exact if_pos unconfigured
  · obtain ⟨a, b⟩ := refused.resolve_left unconfigured
    simp only [changeoverRequest, if_neg unconfigured, stagedSlot_eq_none a b]

theorem changeoverRequest_staged {s : State} {i : SlotId} (configured : s.line.state ≠ .unconfigured)
    (staged : s.plan.stagedSlot = some i) :
    changeoverRequest () s =
      ({ s with plan := s.plan.changeover, line := { s.line with state := s.line.state.atChangeover } },
        ⟨.ok, be1 (slotIdByte i) ++ be2 s.plan.jobCounter⟩) := by
  simp only [changeoverRequest, if_neg configured, staged, LineControl.changeover_eq configured]

theorem exec_changeover {s : State} {f : Frame} {rest : List Frame} (taking : s.Taking .supervisor f rest)
    (kind : f.kind = kindChangeover) (payload : f.payload = []) :
    exec .changeover s =
      .next ((changeoverRequest () s).1.reply .supervisor f rest (changeoverRequest () s).2) :=
  takeSupervisor_noParameters taking kind payload (changeoverRequest_withPorts ())

/-- Settles O30: a refusal without a STAGED slot or configuration, and the move of both slots otherwise. -/
theorem changeoverMakesTheStagedSlotCurrent : Obligations.ChangeoverMakesTheStagedSlotCurrent := by
  unfold Obligations.ChangeoverMakesTheStagedSlotCurrent
  intro s f rest taking kind payload number next displaced moved
  have displaces : displaced = PlanSlot.displace := funext fun x => by cases x <;> rfl
  have moves : moved = s.line.state.atChangeover := by
    show (match s.line.state with | .halt _ => LineState.halt .run | _ => .run) = _
    cases s.line.state <;> rfl
  rw [exec_changeover taking kind payload, displaces, moves]
  refine ⟨fun refused => ?_, fun configured => ⟨fun j a b => ?_, fun j b a => ?_⟩⟩
  · rw [changeoverRequest_refused refused]
  · have other := PlanSlot.makeCurrent_displace_of_unstaged b s.plan.jobCounter
    rw [changeoverRequest_staged configured (stagedSlot_eq_a (by rw [a]; rfl)), PlanUnit.changeover, other, a]
    rfl
  · have other := PlanSlot.makeCurrent_displace_of_unstaged a s.plan.jobCounter
    rw [changeoverRequest_staged configured (stagedSlot_eq_b a (by rw [b]; rfl)), PlanUnit.changeover, other, b]
    rfl

end Sys2Proof.Machine
end

/-! ### PURGE (R35, R86, R88, R137, R138) -/

section
namespace Sys2Proof.Machine

/-! What a slot comes to as all of its sets are withdrawn. -/

/-- A slot once every one of its sets has left as PURGED. -/
def PlanSlot.purged : PlanSlot → PlanSlot
  | .draining _ _ => .free
  | .current n j => .current n { j with
      inQueue := 0
      counters := { j.counters with withdrawn := j.counters.withdrawn + BitVec.ofNat 32 j.inQueue } }
  | .free => .free
  | .staged j => .staged j

/-- A slot once one of its sets has left as PURGED. -/
def PlanSlot.withdraw (x : PlanSlot) : PlanSlot :=
  (x.mapJob fun j => { j with counters := j.counters.count .purged }).release

theorem PlanSlot.Counts.purged_of_none {x : PlanSlot} (h : x.Counts 0) : x.purged = x := by
  cases x with
  | free | staged => rfl
  | current n j =>
    obtain ⟨recipe, plan, source, target, inQueue, counters⟩ := j
    obtain rfl : inQueue = 0 := h
    simp only [PlanSlot.purged, BitVec.add_zero]
  | draining n j => exact absurd h.1 (Nat.ne_of_gt h.2)

theorem PlanSlot.Counts.purged_withdraw {x : PlanSlot} {n : Nat} (h : x.Counts n) (some_record : 0 < n) :
    x.withdraw.purged = x.purged := by
  cases x with
  | free => rfl
  | staged j => exact absurd h.1 (Nat.ne_of_gt some_record)
  | current m j =>
    obtain rfl : j.inQueue = n := h
    have counted : j.counters.withdrawn + 1 + BitVec.ofNat 32 (j.inQueue - 1) =
        j.counters.withdrawn + BitVec.ofNat 32 j.inQueue := by
      rw [BitVec.add_assoc, show (1 : Counter) = BitVec.ofNat 32 1 from rfl, ← BitVec.ofNat_add,
        Nat.add_sub_cancel' some_record]
    simp only [PlanSlot.withdraw, PlanSlot.mapJob, PlanSlot.release, PlanSlot.purged, SlotCounters.count, counted]
  | draining m j =>
    simp only [PlanSlot.withdraw, PlanSlot.mapJob, PlanSlot.release]
    split <;> rfl

/-- A slot that keeps a record keeps its job number (R88). -/
theorem PlanSlot.Counts.number_withdraw {x : PlanSlot} {n : Nat} (h : x.Counts n) (another : 1 < n) :
    x.withdraw.number? = x.number? := by
  cases x with
  | free | staged | current => rfl
  | draining m j =>
    obtain ⟨count, -⟩ := h
    have stays : ¬j.inQueue - 1 = 0 := by omega
    simp only [PlanSlot.withdraw, PlanSlot.mapJob, PlanSlot.release, if_neg stays, PlanSlot.number?]

/-! The history keeps the newest entries. -/

theorem VerdictUnit.drop_history_append (v : VerdictUnit) (depth : v.history.length ≤ Config.historyDepth)
    (e : HistoryEntry) (l : List HistoryEntry) :
    ((v.append e).history ++ l).drop (((v.append e).history ++ l).length - 32) =
      (v.history ++ e :: l).drop ((v.history ++ e :: l).length - 32) := by
  unfold VerdictUnit.append
  split
  next => simp only [List.append_assoc, List.singleton_append]
  next full =>
    have length : v.history.length = 32 := Nat.le_antisymm depth (Nat.le_of_not_lt full)
    cases whole : v.history with
    | nil => simp [whole] at length
    | cons oldest newer =>
      have thirtyOne : newer.length = 31 := by simpa [whole] using length
      simp only [List.tail_cons, List.append_assoc, List.cons_append, List.nil_append, List.length_append,
        List.length_cons, thirtyOne]
      have places : 31 + (l.length + 1) + 1 - 32 = (31 + (l.length + 1) - 32) + 1 := by omega
      rw [places, List.drop_succ_cons]

/-! The state that a purge leaves. -/

/-- The entry of the record at a place of the queue, as the purge appends it (R137). -/
def State.purgeEntry (s : State) (k : Nat) (x : SetRecord) : HistoryEntry :=
  ⟨s.verdict.nextExit + BitVec.ofNat 32 k, x.number, ((s.plan.slot x.slot).number?).getD 0, .purged, x.commanded,
    x.checks, x.entry?, x.sheets.length⟩

/-- The history with the entries of all sets of the queue. -/
def State.purgeEntries (s : State) : List HistoryEntry := s.verdict.history ++ s.tracker.queue.mapIdx s.purgeEntry

/-- The state once every set has left as PURGED. -/
def State.purged (s : State) : State :=
  { s with
    tracker := { s.tracker with queue := [] }
    plan := { s.plan with slotA := s.plan.slotA.purged, slotB := s.plan.slotB.purged }
    verdict := { s.verdict with
      history := s.purgeEntries.drop (s.purgeEntries.length - 32)
      nextExit := s.verdict.nextExit + BitVec.ofNat 32 s.tracker.queue.length } }

theorem State.purged_of_empty {s : State} (slots : s.SlotLaw) (history : s.HistoryLaw) (empty : s.tracker.queue = []) :
    s.purged = s := by
  have counts := ((State.slotLaw_iff s).1 slots).counts
  rw [empty] at counts
  have a : s.plan.slotA.purged = s.plan.slotA := (counts .a).purged_of_none
  have b : s.plan.slotB.purged = s.plan.slotB := (counts .b).purged_of_none
  have few : s.verdict.history.length - 32 = 0 := Nat.sub_eq_zero_of_le history.1
  simp only [State.purged, State.purgeEntries, empty, List.mapIdx_nil, List.append_nil, few, List.drop_zero, a, b,
    List.length_nil, BitVec.add_zero]
  rw [← empty]

theorem State.ext_parts {s t : State} (position : s.position = t.position) (tracker : s.tracker = t.tracker)
    (plan : s.plan = t.plan) (verdict : s.verdict = t.verdict) (store : s.store = t.store) (line : s.line = t.line)
    (ports : s.ports = t.ports) (pending : s.pending = t.pending) : s = t := by
  cases s
  cases t
  simp_all only

/-- A set that leaves in HALT by a purge (R33, R35). -/
theorem State.leave_purge_of_halt {s : State} {ret : ReturnState} (halt : s.line.state = .halt ret) (x : SetRecord) :
    s.leave .purge x = { s with
      tracker := { s.tracker with queue := s.tracker.queue.filter fun y => y.number ≠ x.number }
      plan := s.plan.setSlot x.slot (s.plan.slot x.slot).withdraw
      verdict := s.verdict.append (s.historyEntry x .purged) } := by
  have settled : (((s.settle .purge x).removeSet x.number).releaseSlot x.slot).line = s.line := by
    show (s.countOutlet x.slot .purged).line = s.line
    rw [State.countOutlet_not_accept (by simp)]
    rfl
  have stays : s.leave .purge x = ((s.settle .purge x).removeSet x.number).releaseSlot x.slot := by
    refine State.releaseLine_of_ne_drain ?_
    rw [settled, halt]
    nofun
  have outside := s.sameOutside_leave .purge x
  refine State.ext_parts outside.position (s.tracker_leave .purge x) ?_ ?_ outside.store ?_ outside.ports outside.pending
  · rw [stays, State.plan_released]
    rfl
  · rw [State.verdict_leave]
    rfl
  · rw [stays, settled]

/-! The head of a lawful queue withdrawn: the rest of the queue, the slots once purged, the job numbers (R16, R86, R88). -/

theorem QueueFits.filter_head {x : SetRecord} {l : List SetRecord} (fits : QueueFits (x :: l)) :
    (x :: l).filter (fun y => y.number ≠ x.number) = l := by
  have apart := fits.nodup
  rw [List.map_cons, List.nodup_cons] at apart
  rw [List.filter_cons_of_neg (by simp), List.filter_eq_self]
  intro y mem
  have other : y.number ≠ x.number := fun same => apart.1 (same ▸ List.mem_map_of_mem mem)
  simpa using other

theorem SlotsLawful.purged_withdraw {setup : Bool} {x : SetRecord} {l : List SetRecord} {u : PlanUnit}
    (h : SlotsLawful setup (x :: l) u) (i : SlotId) :
    ((u.setSlot x.slot (u.slot x.slot).withdraw).slot i).purged = (u.slot i).purged := by
  by_cases same : i = x.slot
  · rw [same, PlanUnit.slot_setSlot_self, (h.counts x.slot).purged_withdraw (by simp)]
  · rw [PlanUnit.slot_setSlot_of_ne _ _ same]

theorem SlotsLawful.number_withdraw {setup : Bool} {x y : SetRecord} {l : List SetRecord} {u : PlanUnit}
    (h : SlotsLawful setup (x :: l) u) (mem : y ∈ l) :
    ((u.setSlot x.slot (u.slot x.slot).withdraw).slot y.slot).number? = (u.slot y.slot).number? := by
  by_cases same : y.slot = x.slot
  · have another : 0 < l.countP fun z => z.slot = x.slot := List.countP_pos_iff.2 ⟨y, mem, by simpa using same⟩
    have both : 1 < (x :: l).countP fun z => z.slot = x.slot := by
      rw [List.countP_cons_of_pos (by simp)]
      omega
    rw [same, PlanUnit.slot_setSlot_self, (h.counts x.slot).number_withdraw both]
  · rw [PlanUnit.slot_setSlot_of_ne _ _ same]

/-- Exit numbers count on (R138). -/
theorem Counter.add_one_add (n : Counter) (k : Nat) : n + 1 + BitVec.ofNat 32 k = n + BitVec.ofNat 32 (k + 1) := by
  rw [Nat.add_comm k, BitVec.ofNat_add, BitVec.add_assoc]
  rfl

/-- One set more withdrawn makes no difference to the state once all are. -/
theorem State.purged_leave {s : State} {x : SetRecord} {l : List SetRecord} {ret : ReturnState} (slots : s.SlotLaw)
    (history : s.HistoryLaw) (halt : s.line.state = .halt ret) (queue : s.tracker.queue = x :: l) :
    (s.leave .purge x).tracker.queue = l ∧ (s.leave .purge x).purged = s.purged := by
  have lawful := (State.slotLaw_iff s).1 slots
  rw [queue] at lawful
  have rest : s.tracker.queue.filter (fun y => y.number ≠ x.number) = l := queue ▸ lawful.queue.filter_head
  rw [State.leave_purge_of_halt halt x, rest]
  refine ⟨rfl, ?_⟩
  have entries : l.mapIdx (State.purgeEntry { s with
        tracker := { s.tracker with queue := l }
        plan := s.plan.setSlot x.slot (s.plan.slot x.slot).withdraw
        verdict := s.verdict.append (s.historyEntry x .purged) }) = l.mapIdx fun k => s.purgeEntry (k + 1) := by
    refine List.mapIdx_eq_mapIdx_iff.2 fun k inside => ?_
    simp only [State.purgeEntry, VerdictUnit.append, Counter.add_one_add, lawful.number_withdraw (List.getElem_mem inside)]
  have history := s.verdict.drop_history_append history.1 (s.purgeEntry 0 x) (l.mapIdx fun k => s.purgeEntry (k + 1))
  have first : s.historyEntry x .purged = s.purgeEntry 0 x := by
    simp only [State.historyEntry, State.purgeEntry, BitVec.add_zero]
  rw [first] at entries ⊢
  refine State.ext_parts rfl rfl ?_ ?_ rfl rfl rfl rfl
  · show (⟨(s.plan.setSlot x.slot _).die, ((s.plan.setSlot x.slot _).slot .a).purged,
      ((s.plan.setSlot x.slot _).slot .b).purged, (s.plan.setSlot x.slot _).jobCounter⟩ : PlanUnit) = _
    rw [lawful.purged_withdraw, lawful.purged_withdraw, PlanUnit.die_setSlot, PlanUnit.jobCounter_setSlot]
    rfl
  · simp only [State.purged, State.purgeEntries, entries, history, queue, List.mapIdx_cons, List.length_cons]
    simp only [VerdictUnit.append, Counter.add_one_add]

/-- A purge in HALT withdraws every set. -/
theorem State.purge_of_halt {ret : ReturnState} : ∀ (l : List SetRecord) (s : State), s.tracker.queue = l → s.SlotLaw →
    s.HistoryLaw → s.line.state = .halt ret → l.foldl (fun t x => t.leave .purge x) s = s.purged
  | [], _, empty, slots, history, _ => (State.purged_of_empty slots history empty).symm
  | x :: l, s, queue, slots, history, halt => by
    obtain ⟨rest, same⟩ := State.purged_leave slots history halt queue
    have still : (s.leave .purge x).line.state = .halt ret := by
      rw [State.leave_purge_of_halt halt]
      exact halt
    rw [List.foldl_cons, ← same]
    exact State.purge_of_halt l _ rest (slots.leave .purge (queue ▸ List.mem_cons_self))
      (State.consecutive_leave history .purge x) still

theorem exec_purge {s : State} {f : Frame} {rest : List Frame} (taking : s.Taking .supervisor f rest)
    (kind : f.kind = kindPurge) (payload : f.payload = []) :
    exec .purge s = .next ((purgeRequest () s).1.reply .supervisor f rest (purgeRequest () s).2) :=
  takeSupervisor_noParameters taking kind payload (purgeRequest_withPorts ())

theorem LineState.isHalt_iff (l : LineState) : l.isHalt = true ↔ ∃ ret, l = .halt ret := by
  cases l <;> simp [LineState.isHalt]

/-- Settles O34: refused outside HALT; in HALT the sets leave one after the other, which comes to the state stated. -/
theorem purgeWithdrawsEverySet : Obligations.PurgeWithdrawsEverySet := by
  unfold Obligations.PurgeWithdrawsEverySet
  intro s f rest taking kind payload
  rw [exec_purge taking kind payload]
  refine ⟨fun outside => ?_, ?_⟩
  · have runs : ¬s.line.state.isHalt = true := fun halt => by
      obtain ⟨ret, state⟩ := (LineState.isHalt_iff _).1 halt
      exact outside ret state
    simp only [purgeRequest, if_neg runs]
  · intro ret halt slots history purged entries
    have slot : purged = PlanSlot.purged := funext fun x => by cases x <;> rfl
    have list : entries = s.purgeEntries := rfl
    rw [slot, list]
    simp only [purgeRequest, if_pos ((LineState.isHalt_iff _).2 ⟨ret, halt⟩),
      State.purge_of_halt _ s rfl slots history halt]
    rfl

end Sys2Proof.Machine
end

/-! ### MARK SAMPLE, READ SET and READ PLAN (R36, R37, R77) -/

section
namespace Sys2Proof.Machine

theorem exec_markSample {s : State} {f : Frame} {rest : List Frame} {n : Nat} (taking : s.Taking .supervisor f rest)
    (kind : f.kind = kindMarkSample) (payload : f.payload = be2 n) (carried : n < 65536) :
    exec .markSample s = .next ((markSampleRequest n s).1.reply .supervisor f rest (markSampleRequest n s).2) :=
  takeSupervisor_parsed taking kind (payload ▸ parseSet_be2 carried) (markSampleRequest_withPorts n)

/-- Settles O35: the answer by the record and by the gate's entry. -/
theorem markSampleBeforeTheGate : Obligations.MarkSampleBeforeTheGate := by
  unfold Obligations.MarkSampleBeforeTheGate
  intro s f rest n taking kind payload carried
  rw [exec_markSample taking kind payload carried]
  refine ⟨fun unknown => ?_, fun x found => ⟨fun waiting => ?_, fun late => ?_⟩⟩
  · simp only [markSampleRequest, unknown]
  · simp only [markSampleRequest, found, if_pos waiting, SetRecord.addCheck, CheckWord.add]
  · simp only [markSampleRequest, found, if_neg late]

theorem exec_readSet {s : State} {f : Frame} {rest : List Frame} {n : Nat} (taking : s.Taking .supervisor f rest)
    (kind : f.kind = kindReadSet) (payload : f.payload = be2 n) (carried : n < 65536) :
    exec .readSet s = .next ((readSetRequest n s).1.reply .supervisor f rest (readSetRequest n s).2) :=
  takeSupervisor_parsed taking kind (payload ▸ parseSet_be2 carried) (readSetRequest_withPorts n)

theorem exec_readPlan {s : State} {f : Frame} {rest : List Frame} {n : Nat} (taking : s.Taking .supervisor f rest)
    (kind : f.kind = kindReadPlan) (payload : f.payload = be1 n) (byte : n < 256) :
    exec .readPlan s = .next ((readPlanRequest n s).1.reply .supervisor f rest (readPlanRequest n s).2) :=
  takeSupervisor_parsed taking kind (payload ▸ parseByte_be1 byte) (readPlanRequest_withPorts n)

theorem slotOfByte_outside {n : Nat} (outside : n ≠ 1 ∧ n ≠ 2) : slotOfByte n = none :=
  match n, outside with
  | 0, _ => rfl
  | 1, ⟨one, _⟩ => absurd rfl one
  | 2, ⟨_, two⟩ => absurd rfl two
  | _ + 3, _ => rfl

@[simp] theorem slotOfByte_slotIdByte (i : SlotId) : slotOfByte (slotIdByte i) = some i := by cases i <;> rfl

/-- Settles O37: the answers of READ SET and of READ PLAN, with the state as it was. -/
theorem readSetAndReadPlanChangeNothing : Obligations.ReadSetAndReadPlanChangeNothing := by
  unfold Obligations.ReadSetAndReadPlanChangeNothing
  constructor
  · intro s f rest n taking kind payload carried
    rw [exec_readSet taking kind payload carried]
    refine ⟨fun unknown => ?_, fun x found => ?_⟩
    · simp only [readSetRequest, unknown]
    · simp only [readSetRequest, found]
  · intro s f rest n taking kind payload byte
    rw [exec_readPlan taking kind payload byte]
    refine ⟨fun outside => ?_, ?_⟩
    · simp only [readPlanRequest, slotOfByte_outside outside]
    · rintro i rfl
      simp only [readPlanRequest, slotOfByte_slotIdByte]
      refine ⟨fun free => ?_, fun j d held die => ?_⟩
      · simp only [free, PlanSlot.job?]
      · simp only [held, die, planAnswer, Option.getD_some]

end Sys2Proof.Machine
end

/-! ### READ STATUS and READ PORT STATUS (R7, R152 to R154, R170) -/

section
namespace Sys2Proof.Machine

/-! The flags of a port stay where a frame leaves its buffer, and changes of the ports commute with the frame's leaving. -/

theorem State.port_withoutFrame (s : State) (p : Port) (rest : List Frame) (q : Port) :
    ∃ buffer, (s.withoutFrame p rest).port q = { s.port q with buffer := buffer } := by
  by_cases same : q = p
  · exact ⟨rest, same ▸ s.port_withoutFrame_self p rest⟩
  · exact ⟨(s.port q).buffer, s.port_withoutFrame_of_ne rest same⟩

theorem State.anyFlag_withoutFrame (s : State) (p : Port) (rest : List Frame) (q : Port) :
    ((s.withoutFrame p rest).port q).anyFlag = (s.port q).anyFlag := by
  obtain ⟨buffer, eq⟩ := s.port_withoutFrame p rest q
  rw [eq]
  rfl

theorem State.flagMask_withoutFrame (s : State) (p : Port) (rest : List Frame) (q : Port) :
    flagMask ((s.withoutFrame p rest).port q) = flagMask (s.port q) := by
  obtain ⟨buffer, eq⟩ := s.port_withoutFrame p rest q
  rw [eq]
  rfl

theorem statusBytes_withoutFrame (s : State) (p : Port) (rest : List Frame) :
    statusBytes (s.withoutFrame p rest) = statusBytes s := by
  have flags : (allPorts.map fun q => ((s.withoutFrame p rest).port q).anyFlag) =
      allPorts.map fun q => (s.port q).anyFlag :=
    List.map_congr_left fun q _ => s.anyFlag_withoutFrame p rest q
  simp only [statusBytes, flags]
  rfl

theorem PerPort.ext_get {α : Type} {v w : PerPort α} (h : ∀ p, v.get p = w.get p) : v = w := by
  obtain ⟨supervisor, stations⟩ := v
  obtain ⟨supervisor', stations'⟩ := w
  obtain rfl : supervisor = supervisor' := h .supervisor
  have station : ∀ p, stations.get p = stations'.get p := fun p => h (.station p)
  obtain ⟨_, _, _, _, _, _⟩ := stations
  obtain ⟨_, _, _, _, _, _⟩ := stations'
  have h1 := station .p1
  have h2 := station .p2
  have h3 := station .p3
  have h4 := station .p4
  have h5 := station .p5
  have h6 := station .p6
  simp only [PerStation.get] at h1 h2 h3 h4 h5 h6
  rw [h1, h2, h3, h4, h5, h6]

theorem PerPort.set_comm {α : Type} (v : PerPort α) {p q : Port} (apart : p ≠ q) (x y : α) :
    (v.set p x).set q y = (v.set q y).set p x := by
  refine PerPort.ext_get fun r => ?_
  by_cases own : r = p
  · rw [own, PerPort.get_set_of_ne _ _ apart, PerPort.get_set_self, PerPort.get_set_self]
  · by_cases other : r = q
    · rw [other, PerPort.get_set_self, PerPort.get_set_of_ne _ _ apart.symm, PerPort.get_set_self]
    · rw [PerPort.get_set_of_ne _ _ other, PerPort.get_set_of_ne _ _ own, PerPort.get_set_of_ne _ _ own,
        PerPort.get_set_of_ne _ _ other]

theorem State.updatePort_comm (s : State) {p q : Port} (apart : p ≠ q) (f g : PortState → PortState) :
    (s.updatePort p f).updatePort q g = (s.updatePort q g).updatePort p f := by
  have atQ := s.port_updatePort_of_ne f apart.symm
  have atP := s.port_updatePort_of_ne g apart
  show { s with ports := (s.ports.set p _).set q (g ((s.updatePort p f).port q)) } =
    { s with ports := (s.ports.set q _).set p (f ((s.updatePort q g).port p)) }
  rw [atQ, atP, PerPort.set_comm _ apart]

theorem State.clearFlags_withoutFrame (s : State) (p q : Port) (rest : List Frame) :
    (s.withoutFrame p rest).updatePort q PortState.clearFlags =
      (s.updatePort q PortState.clearFlags).withoutFrame p rest := by
  by_cases same : p = q
  · subst same
    rw [State.withoutFrame, State.withoutFrame, State.updatePort_updatePort, State.updatePort_updatePort]
    rfl
  · exact s.updatePort_comm same _ _

theorem takeSupervisor_reply {α : Type} {kind : Byte} {parse : List Byte → Option α} {act : α → State → Reply}
    {s : State} {f : Frame} {rest : List Frame} {a : α} (taking : s.Taking .supervisor f rest) (ofKind : f.kind = kind)
    (read : parse f.payload = some a)
    (unseen : act a (s.withoutFrame .supervisor rest) = ((act a s).1.withoutFrame .supervisor rest, (act a s).2)) :
    takeSupervisor kind parse act s = .next ((act a s).1.reply .supervisor f rest (act a s).2) := by
  obtain ⟨k, payload, capture⟩ := f
  obtain rfl : k = kind := ofKind
  exact takeRequest_reply (act := fun a _ t => act a t) taking read unseen

/-- Settles O36: the status is that of the state as it stands, and the latches alone are cleared. -/
theorem readStatusClearsTheLatches : Obligations.ReadStatusClearsTheLatches := by
  unfold Obligations.ReadStatusClearsTheLatches
  intro s f rest taking kind payload
  refine takeSupervisor_reply (act := readStatusRequest) (a := ()) taking kind (payload ▸ rfl) ?_
  simp only [readStatusRequest, statusBytes_withoutFrame]
  rfl

@[simp] theorem portOfNumber_portNumber (p : Port) : portOfNumber (portNumber p) = some p := by
  cases p with
  | supervisor => rfl
  | station q => cases q <;> rfl

theorem portOfNumber_outside {n : Nat} (outside : 6 < n) : portOfNumber n = none := by
  rw [portOfNumber, if_neg (by omega), stationOfNumber_outside (.inr outside), Option.map_none]

theorem reportedRole_withoutFrame (s : State) (p q : Port) (rest : List Frame) :
    reportedRole (s.withoutFrame p rest) q = reportedRole s q := by
  cases q <;> rfl

theorem readPortStatusRequest_port (s : State) (p : Port) :
    readPortStatusRequest (portNumber p) s =
      (s.updatePort p PortState.clearFlags,
        ⟨.ok, be1 (portNumber p) ++ be1 (reportedRole s p) ++ be1 (flagMask (s.port p))⟩) := by
  simp only [readPortStatusRequest, portOfNumber_portNumber]

theorem readPortStatusRequest_outside {n : Nat} (outside : 6 < n) (s : State) :
    readPortStatusRequest n s = (s, .range 1 0) := by
  simp only [readPortStatusRequest, portOfNumber_outside outside]

/-- Settles O39: no port for a number above 6; otherwise the report of the port, and its flags cleared. -/
theorem readPortStatusClearsTheFlags : Obligations.ReadPortStatusClearsTheFlags := by
  unfold Obligations.ReadPortStatusClearsTheFlags
  intro s f rest n taking kind payload byte
  have read : parseByte f.payload = some n := payload ▸ parseByte_be1 byte
  refine ⟨fun outside => ?_, ?_⟩
  · have taken := takeSupervisor_reply (act := readPortStatusRequest) taking kind read (by
      rw [readPortStatusRequest_outside outside, readPortStatusRequest_outside outside])
    rw [readPortStatusRequest_outside outside] at taken
    exact taken
  · rintro p rfl role flags
    have reported : role = reportedRole s p := by cases p <;> rfl
    have mask : flags = flagMask (s.port p) := by
      simp only [flags, flagMask, maskOf]
      omega
    have taken := takeSupervisor_reply (act := readPortStatusRequest) taking kind read (by
      rw [readPortStatusRequest_port, readPortStatusRequest_port, State.clearFlags_withoutFrame,
        reportedRole_withoutFrame, State.flagMask_withoutFrame])
    rw [readPortStatusRequest_port, ← reported, ← mask] at taken
    exact taken

end Sys2Proof.Machine
end

/-! ### READ HISTORY and REWIND (R139 to R141) -/

section
namespace Sys2Proof.Machine

/-- By the law of the history, the read pointer's entry stands `lag` places from the end (R138, R139). -/
theorem VerdictUnit.Consecutive.exitNumber_eq_iff {v : VerdictUnit} (law : v.Consecutive) {k : Nat} {e : HistoryEntry}
    (held : v.history[k]? = some e) (below : v.lag ≤ v.history.length) :
    e.exitNumber = v.readPointer ↔ k = v.history.length - v.lag := by
  obtain ⟨depth, numbers⟩ := law
  have inside := (List.getElem?_eq_some_iff.1 held).1
  have few : v.history.length ≤ 32 := depth
  rw [numbers k e held]
  have behind : v.readPointer = v.nextExit - BitVec.ofNat 32 v.lag := by
    rw [VerdictUnit.lag, BitVec.ofNat_toNat, BitVec.setWidth_eq]
    bv_omega
  rw [behind]
  constructor
  · intro same
    have back : BitVec.ofNat 32 (v.history.length - k) = BitVec.ofNat 32 v.lag := by bv_omega
    have numbers := congrArg BitVec.toNat back
    rw [BitVec.toNat_ofNat, BitVec.toNat_ofNat, Nat.mod_eq_of_lt (by omega), Nat.mod_eq_of_lt (by omega)] at numbers
    omega
  · rintro rfl
    rw [Nat.sub_sub_self below]

theorem VerdictUnit.Consecutive.pointed_eq {v : VerdictUnit} (law : v.Consecutive) {e : HistoryEntry}
    (below : v.lag ≤ v.history.length) (held : v.history[v.history.length - v.lag]? = some e) :
    e.exitNumber = v.readPointer ∧ v.pointed = some e := by
  have own := (law.exitNumber_eq_iff held below).2 rfl
  obtain ⟨inside, value⟩ := List.getElem?_eq_some_iff.1 held
  refine ⟨own, List.find?_eq_some_iff_getElem.2 ⟨decide_eq_true own, _, inside, value, fun k before => ?_⟩⟩
  have other := mt (law.exitNumber_eq_iff (List.getElem?_eq_getElem (Nat.lt_trans before inside)) below).1
    (Nat.ne_of_lt before)
  simpa using other

/-! READ HISTORY by its three cases (R140). -/

theorem readHistoryRequest_level {s : State} (level : s.verdict.lag = 0) :
    readHistoryRequest () s = (s, .bare .empty) :=
  if_pos level

theorem readHistoryRequest_held {s : State} {e : HistoryEntry} (behind : 0 < s.verdict.lag)
    (held : s.verdict.lag ≤ s.verdict.history.length) (entry : s.verdict.pointed = some e) :
    readHistoryRequest () s =
      ({ s with verdict := { s.verdict with readPointer := s.verdict.readPointer + 1 } }, historyAnswer 0 e) := by
  simp only [readHistoryRequest, if_neg (Nat.ne_of_gt behind), if_pos held, entry]

theorem readHistoryRequest_lost {s : State} {e : HistoryEntry} (lost : s.verdict.history.length < s.verdict.lag)
    (oldest : s.verdict.history[0]? = some e) :
    readHistoryRequest () s =
      ({ s with verdict := { s.verdict with readPointer := e.exitNumber + 1 } },
        historyAnswer (s.verdict.lag - s.verdict.history.length) e) := by
  rw [← List.head?_eq_getElem?] at oldest
  simp only [readHistoryRequest, if_neg (Nat.ne_of_gt (Nat.zero_lt_of_lt lost)), if_neg (Nat.not_le_of_lt lost), oldest]

theorem exec_readHistory {s : State} {f : Frame} {rest : List Frame} (taking : s.Taking .supervisor f rest)
    (kind : f.kind = kindReadHistory) (payload : f.payload = []) :
    exec .readHistory s =
      .next ((readHistoryRequest () s).1.reply .supervisor f rest (readHistoryRequest () s).2) :=
  takeSupervisor_noParameters taking kind payload (readHistoryRequest_withPorts ())

theorem exec_rewind {s : State} {f : Frame} {rest : List Frame} (taking : s.Taking .supervisor f rest)
    (kind : f.kind = kindRewind) (payload : f.payload = []) :
    exec .rewind s = .next ((rewindRequest () s).1.reply .supervisor f rest (rewindRequest () s).2) :=
  takeSupervisor_noParameters taking kind payload (rewindRequest_withPorts ())

/-- Settles O38: the three cases of the lag, and the two of REWIND. -/
theorem historyIsReadByTheLag : Obligations.HistoryIsReadByTheLag := by
  unfold Obligations.HistoryIsReadByTheLag
  constructor
  · intro s f rest taking kind payload law lag held
    rw [exec_readHistory taking kind payload]
    refine ⟨fun level => ?_, fun e behind below entry => ?_, fun e lost oldest => ?_⟩
    · rw [readHistoryRequest_level level]
    · obtain ⟨own, pointed⟩ := VerdictUnit.Consecutive.pointed_eq law below entry
      refine ⟨own, ?_⟩
      rw [readHistoryRequest_held behind below pointed, historyAnswer]
    · rw [readHistoryRequest_lost lost oldest, historyAnswer]
      rfl
  · intro s f rest taking kind payload
    rw [exec_rewind taking kind payload]
    refine ⟨fun e oldest => ?_, fun none => ?_⟩
    · rw [← List.head?_eq_getElem?] at oldest
      simp only [rewindRequest, VerdictUnit.rewindTo, oldest, Option.map_some, Option.getD_some]
    · simp only [rewindRequest, VerdictUnit.rewindTo, none, List.head?_nil, Option.map_none, Option.getD_none]

end Sys2Proof.Machine
end

/-! ### The collator's requests (chapters 2, 3) -/

section
namespace Sys2Proof.Machine

/-! The words of the collator's requests, said of the record's state. -/

theorem SetRecord.isGathering_iff (x : SetRecord) : x.isGathering = true ↔ x.state = .gathering := by
  unfold SetRecord.isGathering SetRecord.entry?
  cases x.state <;> simp

theorem SetRecord.not_isGathering {x : SetRecord} (travels : x.state ≠ .gathering) : x.isGathering = false :=
  Bool.eq_false_iff.2 (mt (SetRecord.isGathering_iff x).1 travels)

theorem State.missingSet_eq (s : State) (n : Nat) :
    s.missingSet n = .bare (if s.tracker.lastOpened = some n then .state else .noSet) := by
  unfold State.missingSet
  split <;> rfl

/-! Each check name joins the word as a disjunct of its own field (R20). -/

theorem CheckWord.addIf_gaugeGap (w : CheckWord) (b : Bool) :
    w.addIf b .gaugeGap = { w with gaugeGap := w.gaugeGap || b } := by
  cases b <;> simp [CheckWord.addIf, CheckWord.add]

theorem CheckWord.addIf_short (w : CheckWord) (b : Bool) : w.addIf b .short = { w with short := w.short || b } := by
  cases b <;> simp [CheckWord.addIf, CheckWord.add]

theorem CheckWord.addIf_crowded (w : CheckWord) (b : Bool) :
    w.addIf b .crowded = { w with crowded := w.crowded || b } := by
  cases b <;> simp [CheckWord.addIf, CheckWord.add]

theorem CheckWord.addIf_liftOverload (w : CheckWord) (b : Bool) :
    w.addIf b .liftOverload = { w with liftOverload := w.liftOverload || b } := by
  cases b <;> simp [CheckWord.addIf, CheckWord.add]

theorem CheckWord.addIf_liftLimit (w : CheckWord) (b : Bool) :
    w.addIf b .liftLimit = { w with liftLimit := w.liftLimit || b } := by
  cases b <;> simp [CheckWord.addIf, CheckWord.add]

theorem CheckWord.addClass_eq (w : CheckWord) (c : SheetClass) :
    w.addClass c = { w with
      thin := w.thin || decide (c = .thin)
      thick := w.thick || decide (c = .thick)
      double := w.double || decide (c = .double) } := by
  cases c <;> simp [CheckWord.addClass, classCheck, CheckWord.add]

end Sys2Proof.Machine
end

/-! ### OPEN (R17, R21 to R23, R86, R87, R99) -/

section
namespace Sys2Proof.Machine

/-- The number of the next set is the first from the next set number on that no record carries (R17). -/
theorem SetTracker.freshNumber_first {t : SetTracker} (depth : t.queue.length ≤ 16) :
    (∀ x ∈ t.queue, x.number ≠ t.freshNumber) ∧
      ∃ k, k ≤ t.queue.length ∧ t.freshNumber = Nat.repeat nextNumberAfter k t.nextNumber ∧
        ∀ m < k, ∃ x ∈ t.queue, x.number = Nat.repeat nextNumberAfter m t.nextNumber := by
  have round : (t.queue.map (·.number)).length < Config.numberMax := by
    rw [List.length_map]
    exact Nat.lt_of_le_of_lt depth (by decide)
  obtain ⟨k, within, found, passed, free⟩ := freshNumber_free round t.nextNumber
  rw [List.length_map] at within found
  have fresh : t.freshNumber = Nat.repeat nextNumberAfter k t.nextNumber := found
  refine ⟨fun x mem same => free ?_, k, within, fresh, fun m before => ?_⟩
  · rw [← fresh, ← same]
    exact List.mem_map_of_mem mem
  · obtain ⟨x, mem, number⟩ := List.mem_map.1 (passed m before)
    exact ⟨x, mem, number⟩

theorem PlanUnit.currentSlot_eq {u : PlanUnit} {i : SlotId} (current : (u.slot i).isCurrent = true)
    (first : i = .b → u.slotA.isCurrent = false) : u.currentSlot = some i := by
  cases i with
  | a => exact if_pos current
  | b =>
    rw [PlanUnit.currentSlot, PlanUnit.findSlot, first rfl]
    exact if_pos current

theorem State.gatheringSet_isSome_iff (s : State) :
    s.gatheringSet.isSome = true ↔ ∃ x ∈ s.tracker.queue, x.state = .gathering := by
  simp only [State.gatheringSet, List.find?_isSome, SetRecord.isGathering_iff]

/-- The initial progress of a role, by the style byte (R99). -/
theorem initialProgress_eq (r : Recipe) (role : StationRole) :
    initialProgress r.style role =
      if (role = .notch ∧ r.styleCode ≠ 1) ∨ (role = .drill ∧ r.styleCode ≠ 2) then .passing else .waiting := by
  obtain ⟨cut, drill⟩ := style_iff r
  cases role with
  | punch | binder | gate => simp [initialProgress]
  | notch => by_cases code : r.styleCode = 1 <;> simp [initialProgress, cut, code]
  | drill => by_cases code : r.styleCode = 2 <;> simp [initialProgress, drill, code]

/-- The progress entry of a role at OPEN, by the style byte (R99). -/
theorem initialEntry_eq (stations : PerStation Station) (r : Recipe) (role : StationRole) :
    initialEntry stations r.style role =
      if (portsWith stations (.station role)).isEmpty then none
      else if (role = .notch ∧ r.styleCode ≠ 1) ∨ (role = .drill ∧ r.styleCode ≠ 2) then some .passing
      else some .waiting := by
  rw [initialEntry, rolePresent, initialProgress_eq, apply_ite some]
  cases (portsWith stations (.station role)).isEmpty <;> rfl

theorem openRequest_stopped {s : State} (stopped : s.line.state ≠ .run) (c : Position) :
    openRequest () c s = (s, .bare .state) :=
  if_pos stopped

theorem openRequest_full {s : State} (run : s.line.state = .run) (full : 16 ≤ s.tracker.queue.length) (c : Position) :
    openRequest () c s = (s, .bare .full) := by
  rw [openRequest, if_neg (Classical.not_not.2 run), if_pos full]

theorem openRequest_busy {s : State} (run : s.line.state = .run) (room : s.tracker.queue.length < 16)
    (busy : s.gatheringSet.isSome = true) (c : Position) : openRequest () c s = (s, .bare .busy) := by
  rw [openRequest, if_neg (Classical.not_not.2 run), if_neg (Nat.not_le_of_lt room), if_pos busy]

theorem openRequest_current {s : State} {i : SlotId} {n : Nat} {j : Job} (run : s.line.state = .run)
    (room : s.tracker.queue.length < 16) (closed : ¬s.gatheringSet.isSome = true)
    (current : s.plan.currentSlot = some i) (held : s.plan.slot i = .current n j) (c : Position) :
    openRequest () c s =
      if j.quotaAllows then
        (s.openUnder i, ⟨.ok, be2 s.tracker.freshNumber ++ be1 (s.slotRecipe i).sheetTotal⟩)
      else (s, .bare .quota) := by
  have quota : ((s.plan.slot i).job?.map Job.quotaAllows).getD false = j.quotaAllows := by rw [held]; rfl
  simp only [openRequest, if_neg (Classical.not_not.2 run), if_neg (Nat.not_le_of_lt room), if_neg closed, current, quota]

theorem exec_openSet {s : State} {p : StationPort} {f : Frame} {rest : List Frame}
    (taking : s.Taking (.station p) f rest) (kind : f.kind = kindOpen) (payload : f.payload = [])
    (role : (s.station p).role = .collator) :
    exec (.openSet p) s =
      .next ((openRequest () f.capture s).1.reply (.station p) f rest (openRequest () f.capture s).2) :=
  takeCollator_parsed taking kind (payload ▸ rfl) role (openRequest_withPorts () f.capture)

/-- Settles O40: the tests of R21 in order and the record opened; the number is that of `freshNumber_first`. -/
theorem openAppendsAGatheringSet : Obligations.OpenAppendsAGatheringSet := by
  unfold Obligations.OpenAppendsAGatheringSet
  constructor
  · intro s p f rest taking kind payload role
    rw [exec_openSet taking kind payload role]
    refine ⟨fun stopped => ?_, fun run => ⟨fun full => ?_, fun room => ⟨fun busy => ?_, ?_⟩⟩⟩
    · rw [openRequest_stopped stopped]
    · rw [openRequest_full run full]
    · rw [openRequest_busy run room ((State.gatheringSet_isSome_iff s).2 busy)]
    · intro closed i n j held first allowed number entry
      have noneGathers : ¬s.gatheringSet.isSome = true := fun some => by
        obtain ⟨x, mem, gathers⟩ := (State.gatheringSet_isSome_iff s).1 some
        exact closed x mem gathers
      have current := PlanUnit.currentSlot_eq (by rw [held]; rfl) first
      rw [openRequest_current run room noneGathers current held]
      refine ⟨fun spent => ?_, fun free => ?_⟩
      · rw [if_neg (mt (Job.quotaAllows_iff j).1 spent)]
      · have recipe : s.slotRecipe i = j.recipe := by rw [State.slotRecipe, held]; rfl
        have entries : entry = initialEntry s.tracker.stations j.recipe.style :=
          funext fun r => (initialEntry_eq s.tracker.stations j.recipe r).symm
        rw [if_pos ((Job.quotaAllows_iff j).2 free), entries, recipe, State.openUnder, recipe, held]
        rfl
  · intro t depth
    obtain ⟨fresh, k, within, found, passed⟩ := SetTracker.freshNumber_first depth
    exact ⟨fresh, k, within, found, passed⟩

end Sys2Proof.Machine
end

/-! ### SHEET (R24 to R27, R40 to R44) -/

section
namespace Sys2Proof.Machine

theorem unreadEntries_eq (r : Recipe) : ∀ k i,
    unreadEntries r k i = (List.range' i k).map fun index => sheetEntryOf r index 0
  | 0, _ => rfl
  | k + 1, i => by rw [unreadEntries, unreadEntries_eq r k, List.range'_succ, List.map_cons]

/-- A record with a sheet recorded, field by field (R27, R44). -/
theorem SetRecord.recordSheet_eq (x : SetRecord) (r : Recipe) (index caliper : Nat) :
    x.recordSheet r index caliper =
      let e := sheetEntryOf r index caliper
      { x with
        sheets := x.sheets ++
          ((List.range' x.sheets.length (index - x.sheets.length)).map fun i => sheetEntryOf r i 0) ++ [e]
        checks := { x.checks with
          gaugeGap := x.checks.gaugeGap || decide (x.sheets.length < index) || decide (caliper = 0)
          thin := x.checks.thin || decide (e.sheetClass = .thin)
          thick := x.checks.thick || decide (e.sheetClass = .thick)
          double := x.checks.double || decide (e.sheetClass = .double) } } := by
  have zero : (caliper == 0) = decide (caliper = 0) := by
    rw [Bool.eq_iff_iff, beq_iff_eq, decide_eq_true_iff]
  simp only [SetRecord.recordSheet, unreadEntries_eq, CheckWord.addIf_gaugeGap, CheckWord.addClass_eq, zero,
    Bool.or_assoc]

theorem sheetRequest_unknown {s : State} {c : SheetParams} (unknown : s.findSet c.set = none) (q : Position) :
    sheetRequest c q s = (s, .bare (if s.tracker.lastOpened = some c.set then .state else .noSet)) := by
  simp only [sheetRequest, unknown, State.missingSet_eq]

theorem sheetRequest_travelling {s : State} {c : SheetParams} {x : SetRecord} (found : s.findSet c.set = some x)
    (travels : x.state ≠ .gathering) (q : Position) : sheetRequest c q s = (s, .bare .state) := by
  simp only [sheetRequest, found, SetRecord.not_isGathering travels, Bool.not_false, if_true]

theorem sheetRequest_gathering {s : State} {c : SheetParams} {x : SetRecord} (found : s.findSet c.set = some x)
    (gathers : x.state = .gathering) (q : Position) :
    sheetRequest c q s = if 32 ≤ c.index then (s, .range 2 0) else takeSheet c x s := by
  simp only [sheetRequest, found, (SetRecord.isGathering_iff x).2 gathers, Bool.not_true, Bool.false_eq_true, if_false]

theorem exec_sheet {s : State} {p : StationPort} {f : Frame} {rest : List Frame} {n index caliper : Nat}
    (taking : s.Taking (.station p) f rest) (kind : f.kind = kindSheet)
    (payload : f.payload = be2 n ++ be1 index ++ be2 caliper) (number : n < 65536) (byte : index < 256)
    (carried : caliper < 4096) (role : (s.station p).role = .collator) :
    exec (.sheet p) s =
      .next ((sheetRequest ⟨n, index, caliper⟩ f.capture s).1.reply (.station p) f rest
        (sheetRequest ⟨n, index, caliper⟩ f.capture s).2) := by
  have read : parseSheet f.payload = some ⟨n, index, caliper⟩ := by
    rw [payload, parseSheet_bytes number byte (by omega), Nat.mod_eq_of_lt carried]
  exact takeCollator_parsed taking kind read role (sheetRequest_withPorts _ f.capture)

/-! The entry of a reading (R40 to R43). -/

theorem sheetEntryOf_unread {r : Recipe} {index : Nat} {g : SheetGroup} (group : groupOfIndex r.groups index = some g) :
    sheetEntryOf r index 0 = ⟨none, .unread, g.nominal⟩ := by
  simp only [sheetEntryOf, group, Option.getD_some, measuredOf, if_pos, classOf, planningOf]

theorem sheetEntryOf_read {r : Recipe} {index caliper : Nat} {g : SheetGroup}
    (group : groupOfIndex r.groups index = some g) (read : 0 < caliper) :
    sheetEntryOf r index caliper =
      ⟨some (min caliper 4000), classOf g.nominal g.tolerance (some (min caliper 4000)),
        max (min caliper 4000) g.nominal⟩ := by
  simp only [sheetEntryOf, group, Option.getD_some, measuredOf, if_neg (Nat.ne_of_gt read), planningOf]

/-- Settles O41: the refusals, the three outcomes of a reading, and the entry that a reading makes. -/
theorem sheetIsRecorded : Obligations.SheetIsRecorded := by
  unfold Obligations.SheetIsRecorded
  constructor
  · intro s p f rest n index caliper taking kind payload number byte carried role
    rw [exec_sheet taking kind payload number byte carried role]
    refine ⟨fun unknown => ?_, fun x found => ⟨fun travels => ?_, fun gathers => ⟨fun beyond => ?_, ?_⟩⟩⟩
    · rw [sheetRequest_unknown unknown]
    · rw [sheetRequest_travelling found travels]
    · rw [sheetRequest_gathering found gathers, if_pos beyond]
    · intro within r e
      rw [sheetRequest_gathering found gathers, if_neg (Nat.not_le_of_lt within)]
      refine ⟨fun below => ?_, fun next beyond => ?_, fun next expected => ?_⟩
      · simp only [takeSheet, if_pos below]
      · simp only [takeSheet, if_neg (Nat.not_lt_of_le next)]
        rw [if_pos beyond]
      · have recorded : (fun y : SetRecord => y.recordSheet r index caliper) = _ :=
          funext fun y => y.recordSheet_eq r index caliper
        simp only [takeSheet, if_neg (Nat.not_lt_of_le next)]
        rw [if_neg (Nat.not_le_of_lt expected), recorded]
  · intro r index caliper g group n tol m
    refine ⟨fun unread => ?_, fun read => ?_⟩
    · rw [unread, sheetEntryOf_unread group]
    · have upper : (m : Int) ≤ n + tol ↔ m ≤ g.nominal + g.tolerance := by omega
      rw [sheetEntryOf_read group read, classOf]
      simp only [upper]
      rfl

end Sys2Proof.Machine
end

/-! ### CLOSE and ABANDON (R13, R28 to R33, R51) -/

section
namespace Sys2Proof.Machine

/-- A record as it closes, field by field (R29 to R31). -/
theorem SetRecord.closeAt_eq (x : SetRecord) (r : Recipe) (entry : Position) (crowded : Bool) :
    x.closeAt r entry crowded = { x with
      state := .travelling entry
      liftPlan := (planLifts r x.sheets).plan
      checks := { x.checks with
        short := x.checks.short || decide (x.sheets.length < r.sheetTotal)
        crowded := x.checks.crowded || crowded
        liftOverload := x.checks.liftOverload || (planLifts r x.sheets).overload
        liftLimit := x.checks.liftLimit || (planLifts r x.sheets).limit } } := by
  simp only [SetRecord.closeAt, SetRecord.withLifts, CheckWord.addIf_short, CheckWord.addIf_crowded,
    CheckWord.addIf_liftOverload, CheckWord.addIf_liftLimit]

theorem closeRequest_unknown {s : State} {n : Nat} (unknown : s.findSet n = none) (q : Position) :
    closeRequest n q s = (s, .bare (if s.tracker.lastOpened = some n then .state else .noSet)) := by
  simp only [closeRequest, unknown, State.missingSet_eq]

theorem closeRequest_travelling {s : State} {n : Nat} {x : SetRecord} (found : s.findSet n = some x)
    (travels : x.state ≠ .gathering) (q : Position) : closeRequest n q s = (s, .bare .state) := by
  simp only [closeRequest, found, SetRecord.not_isGathering travels, Bool.not_false, if_true]

theorem closeRequest_gathering {s : State} {n : Nat} {x : SetRecord} (found : s.findSet n = some x)
    (gathers : x.state = .gathering) (q : Position) :
    closeRequest n q s =
      if x.sheets = [] then (s, .bare .empty)
      else (s.closeRecord x q, ⟨.ok, be1 (x.closeAt (s.slotRecipe x.slot) q (s.isCrowded x.number q)).liftCount⟩) := by
  simp only [closeRequest, found, (SetRecord.isGathering_iff x).2 gathers, Bool.not_true, Bool.false_eq_true, if_false]

theorem exec_closeSet {s : State} {p : StationPort} {f : Frame} {rest : List Frame} {n : Nat}
    (taking : s.Taking (.station p) f rest) (kind : f.kind = kindClose) (payload : f.payload = be2 n)
    (number : n < 65536) (role : (s.station p).role = .collator) :
    exec (.closeSet p) s =
      .next ((closeRequest n f.capture s).1.reply (.station p) f rest (closeRequest n f.capture s).2) :=
  takeCollator_parsed taking kind (payload ▸ parseSet_be2 number) role (closeRequest_withPorts n f.capture)

/-- Settles O42: the refusals, and the record that travels and crosses what lies behind its distance. -/
theorem closeStartsTravel : Obligations.CloseStartsTravel := by
  unfold Obligations.CloseStartsTravel
  intro s p f rest n taking kind payload carried role
  rw [exec_closeSet taking kind payload carried role]
  refine ⟨fun unknown => ?_, fun x found => ⟨fun travels => ?_, fun gathers => ⟨fun empty => ?_, ?_⟩⟩⟩
  · rw [closeRequest_unknown unknown]
  · rw [closeRequest_travelling found travels]
  · rw [closeRequest_gathering found gathers, if_pos empty]
  · intro filled r lifts ahead crowded y
    have number : x.number = n := (State.mem_of_findSet found).2
    have near : s.isCrowded n f.capture = crowded := by
      show Option.any _ ahead = match ahead with | none => false | some e => _
      cases ahead <;> rfl
    have closed : x.closeAt (s.slotRecipe x.slot) f.capture (s.isCrowded n f.capture) = y := by
      rw [SetRecord.closeAt_eq, near]
    have taken : closeRequest n f.capture s =
        ((s.updateSet n fun _ => y).crossSet n 0 (s.position.tracking - f.capture).toNat,
          ⟨.ok, be1 ((lifts.plan.map List.length).getD 0)⟩) := by
      rw [closeRequest_gathering found gathers, if_neg filled, State.closeRecord, number, closed]
      rfl
    rw [taken]
    cases lifts.plan <;> rfl

theorem abandonRequest_unknown {s : State} {n : Nat} (unknown : s.findSet n = none) (q : Position) :
    abandonRequest n q s = (s, .bare (if s.tracker.lastOpened = some n then .state else .noSet)) := by
  simp only [abandonRequest, unknown, State.missingSet_eq]

theorem exec_abandon {s : State} {p : StationPort} {f : Frame} {rest : List Frame} {n : Nat}
    (taking : s.Taking (.station p) f rest) (kind : f.kind = kindAbandon) (payload : f.payload = be2 n)
    (number : n < 65536) (role : (s.station p).role = .collator) :
    exec (.abandon p) s =
      .next ((abandonRequest n f.capture s).1.reply (.station p) f rest (abandonRequest n f.capture s).2) :=
  takeCollator_parsed taking kind (payload ▸ parseSet_be2 number) role (abandonRequest_withPorts n f.capture)

/-- Settles O43: the refusals, and the leaving of the gathering set. -/
theorem abandonWithdrawsTheGatheringSet : Obligations.AbandonWithdrawsTheGatheringSet := by
  unfold Obligations.AbandonWithdrawsTheGatheringSet
  intro s p f rest n taking kind payload carried role
  rw [exec_abandon taking kind payload carried role]
  refine ⟨fun unknown => ?_, fun x found => ⟨fun travels => ?_, fun gathers => ?_⟩⟩
  · rw [abandonRequest_unknown unknown]
  · simp only [abandonRequest, found, SetRecord.not_isGathering travels, Bool.not_false, if_true]
  · simp only [abandonRequest, found, (SetRecord.isGathering_iff x).2 gathers, Bool.not_true, Bool.false_eq_true,
      if_false]

end Sys2Proof.Machine
end

/-! ### The lift plan (R46 to R51) -/

section
namespace Sys2Proof.Machine

theorem liftTotal_nil : liftTotal [] = 0 := rfl

/-- Settles O44: what the planner's walk over the whole sheet list answers. -/
theorem liftPlanCoversEverySheet : Obligations.LiftPlanCoversEverySheet := by
  unfold Obligations.LiftPlanCoversEverySheet
  intro r sheets fits filled
  have some_sheet : 0 < sheets.length := List.length_pos_iff.2 filled
  obtain ⟨planned, ends⟩ := walkLifts_whole r fits sheets
  unfold planLifts
  generalize walkLifts r.liftCapacity r.liftSheets (sheets.map (·.planning)) 0 none [] = w at planned ends
  obtain ⟨lifts, limit⟩ := w
  have overload : lifts.any (·.overload) = true ↔ ∃ l ∈ lifts, l.overload = true := List.any_eq_true
  obtain ⟨rfl, few, all⟩ | ⟨rfl, eight, left⟩ := ends
  · refine ⟨by simp, fun ls plan => ?_, nofun⟩
    obtain rfl : lifts = ls := Option.some.inj plan
    refine ⟨Nat.one_le_iff_ne_zero.2 fun none => ?_, few, all, planned, overload⟩
    rw [List.length_eq_zero_iff.1 none, liftTotal_nil] at all
    omega
  · exact ⟨by simp, nofun, fun _ => ⟨lifts, eight, left, planned, overload⟩⟩

end Sys2Proof.Machine
end

/-! ### The recipe's field range check (R56) -/

section
namespace Sys2Proof.Machine

/-- The field that a check names lies in its range. -/
def FieldRef.Fits (r : Recipe) (f : FieldRef) : Prop := FieldFits r f.field f.group

/-- The field that a check names is examined before another's. -/
def FieldRef.Before (a b : FieldRef) : Prop := ExaminedBefore a.field a.group b.field b.group

/-! The checks of the groups, place by place. -/

theorem mem_groupListChecks (c : Bool × FieldRef) (gs : List SheetGroup) : ∀ place,
    c ∈ groupListChecks place gs ↔ ∃ k g, gs[k]? = some g ∧ c ∈ groupChecks (place + k) g := by
  induction gs with
  | nil => simp [groupListChecks]
  | cons g gs ih =>
    intro place
    rw [groupListChecks, List.mem_append, ih]
    constructor
    · rintro (own | ⟨k, h, at_k, mem⟩)
      · exact ⟨0, g, rfl, own⟩
      · exact ⟨k + 1, h, at_k, by rwa [← Nat.add_assoc, Nat.add_right_comm]⟩
    · rintro ⟨k, h, at_k, mem⟩
      cases k with
      | zero => exact .inl (Option.some.inj at_k ▸ mem)
      | succ k => exact .inr ⟨k, h, at_k, by rwa [Nat.add_right_comm, Nat.add_assoc]⟩

theorem mem_groupChecks_fields (f : FieldRef) (place : Nat) (g : SheetGroup) :
    f ∈ (groupChecks place g).map Prod.snd ↔ f.group = place ∧ 14 ≤ f.field ∧ f.field ≤ 17 := by
  obtain ⟨field, group⟩ := f
  simp only [groupChecks, List.map_cons, List.map_nil, List.mem_cons, List.not_mem_nil, or_false, FieldRef.mk.injEq]
  omega

theorem group_of_mem_groupChecks {c : Bool × FieldRef} {place : Nat} {g : SheetGroup} (mem : c ∈ groupChecks place g) :
    c.2.group = place :=
  ((mem_groupChecks_fields c.2 place g).1 (List.mem_map_of_mem mem)).1

theorem pairwise_groupChecks (place : Nat) (g : SheetGroup) :
    (groupChecks place g).Pairwise fun a b => a.2.Before b.2 := by
  simp [groupChecks, FieldRef.Before, ExaminedBefore]

theorem pairwise_groupListChecks (gs : List SheetGroup) : ∀ place,
    (groupListChecks place gs).Pairwise fun a b => a.2.Before b.2 := by
  induction gs with
  | nil => exact fun _ => .nil
  | cons g gs ih =>
    intro place
    refine List.pairwise_append.2 ⟨pairwise_groupChecks place g, ih (place + 1), fun a own b later => .inl ?_⟩
    obtain ⟨k, h, -, mem⟩ := (mem_groupListChecks b gs (place + 1)).1 later
    rw [group_of_mem_groupChecks own, group_of_mem_groupChecks mem]
    omega

/-- The check of a field of a group reads whether the field lies in its range. -/
theorem groupChecks_reads {r : Recipe} {k : Nat} {g : SheetGroup} (held : r.groups[k]? = some g)
    {c : Bool × FieldRef} (mem : c ∈ groupChecks (1 + k) g) : c.1 = true ↔ c.2.Fits r := by
  have fits : ∀ P : SheetGroup → Prop, GroupFits r (1 + k) P ↔ P g := fun P => by
    rw [GroupFits, Nat.add_sub_cancel_left, held]
    simp
  simp only [groupChecks, List.mem_cons, List.not_mem_nil, or_false] at mem
  obtain rfl | rfl | rfl | rfl := mem <;> simp only [FieldRef.Fits, FieldFits, fits, inRange_iff, Bool.and_eq_true,
    beq_iff_eq] <;> omega

/-! The checks of the recipe's own fields. -/

/-- The checks of fields 1 to 13. -/
def ownChecks (r : Recipe) : List (Bool × FieldRef) := (recipeChecks r).take 13

theorem recipeChecks_eq (r : Recipe) : recipeChecks r = ownChecks r ++ groupListChecks 1 r.groups := rfl

theorem nameInRange_iff (name : List Byte) :
    nameInRange name = true ↔ name.length = 12 ∧ ∀ c ∈ name, 0x20 ≤ c.toNat ∧ c.toNat ≤ 0x7E := by
  simp only [nameInRange, Bool.and_eq_true, beq_iff_eq, List.all_eq_true, inRange_iff]

theorem ownChecks_reads {r : Recipe} {c : Bool × FieldRef} (mem : c ∈ ownChecks r) : c.1 = true ↔ c.2.Fits r := by
  obtain ⟨cut, drill⟩ := style_iff r
  simp only [ownChecks, recipeChecks, List.cons_append, List.take_succ_cons, List.take_zero, List.mem_cons,
    List.not_mem_nil, or_false] at mem
  obtain rfl | rfl | rfl | rfl | rfl | rfl | rfl | rfl | rfl | rfl | rfl | rfl | rfl := mem <;>
    simp only [FieldRef.Fits, FieldFits, nameInRange_iff, inRange_iff, Bool.or_eq_true, bne_iff_ne, ne_eq, cut, drill,
      Nat.zero_le, true_and, Decidable.imp_iff_not_or]

theorem ownChecks_fields (r : Recipe) : (ownChecks r).map Prod.snd = (List.range' 1 13).map fun k => ⟨k, 0⟩ := rfl

theorem pairwise_ownChecks (r : Recipe) : (ownChecks r).Pairwise fun a b => a.2.Before b.2 := by
  rw [← List.pairwise_map (f := Prod.snd) (R := FieldRef.Before), ownChecks_fields, List.pairwise_map]
  exact (List.pairwise_lt_range' (s := 1) (n := 13)).imp fun before => .inr ⟨rfl, before⟩

/-! The checks of a recipe, those of its own fields before those of its groups. -/

theorem recipeChecks_reads {r : Recipe} {c : Bool × FieldRef} (mem : c ∈ recipeChecks r) : c.1 = true ↔ c.2.Fits r := by
  rw [recipeChecks_eq, List.mem_append, mem_groupListChecks] at mem
  obtain own | ⟨k, g, held, mem⟩ := mem
  · exact ownChecks_reads own
  · exact groupChecks_reads held mem

theorem pairwise_recipeChecks (r : Recipe) : (recipeChecks r).Pairwise fun a b => a.2.Before b.2 := by
  rw [recipeChecks_eq]
  refine List.pairwise_append.2 ⟨pairwise_ownChecks r, pairwise_groupListChecks r.groups 1, fun a own b later => .inl ?_⟩
  have first : a.2 ∈ (ownChecks r).map Prod.snd := List.mem_map_of_mem own
  rw [ownChecks_fields, List.mem_map] at first
  obtain ⟨field, -, own⟩ := first
  obtain ⟨k, g, -, mem⟩ := (mem_groupListChecks b r.groups 1).1 later
  rw [← own, group_of_mem_groupChecks mem]
  exact Nat.lt_of_lt_of_le Nat.zero_lt_one (Nat.le_add_right 1 k)

theorem mem_recipeChecks_iff (r : Recipe) (f : FieldRef) :
    f ∈ (recipeChecks r).map Prod.snd ↔ HasField r f.field f.group := by
  obtain ⟨field, group⟩ := f
  rw [recipeChecks_eq, List.map_append, List.mem_append, ownChecks_fields]
  refine or_congr ?_ ?_
  · simp only [List.mem_map, List.mem_range'_1, FieldRef.mk.injEq]
    constructor
    · rintro ⟨k, within, rfl, rfl⟩
      exact ⟨rfl, by omega⟩
    · rintro ⟨rfl, within⟩
      exact ⟨field, by omega, rfl, rfl⟩
  · constructor
    · intro mem
      obtain ⟨c, mem, named⟩ := List.mem_map.1 mem
      obtain ⟨k, g, held, mem⟩ := (mem_groupListChecks c r.groups 1).1 mem
      have own : (⟨field, group⟩ : FieldRef) ∈ (groupChecks (1 + k) g).map Prod.snd :=
        List.mem_map.2 ⟨c, mem, named⟩
      obtain ⟨place, fields⟩ := (mem_groupChecks_fields _ _ _).1 own
      have inside := (List.getElem?_eq_some_iff.1 held).1
      dsimp only at place fields ⊢
      omega
    · intro has
      obtain ⟨low, high, fields⟩ : 1 ≤ group ∧ group ≤ r.groups.length ∧ 14 ≤ field ∧ field ≤ 17 := has
      have held := List.getElem?_eq_getElem (l := r.groups) (i := group - 1) (by omega)
      have place : group = 1 + (group - 1) := by omega
      obtain ⟨c, mem, named⟩ :=
        List.mem_map.1 ((mem_groupChecks_fields ⟨field, group⟩ _ r.groups[group - 1]).2 ⟨place, fields⟩)
      exact List.mem_map.2 ⟨c, (mem_groupListChecks c r.groups 1).2 ⟨_, _, held, mem⟩, named⟩

theorem FieldRef.before_asymm (a b : FieldRef) (h : a.Before b) : ¬b.Before a := by
  unfold FieldRef.Before ExaminedBefore at *
  omega

theorem rangeFailure_eq_some_iff (r : Recipe) (e : FieldRef) :
    rangeFailure r = some e ↔ HasField r e.field e.group ∧ ¬FieldFits r e.field e.group ∧
      ∀ field group, HasField r field group → ExaminedBefore field group e.field e.group → FieldFits r field group := by
  rw [rangeFailure, firstFailure_eq_some_iff FieldRef.before_asymm (fun _ => recipeChecks_reads)
    (pairwise_recipeChecks r), mem_recipeChecks_iff]
  refine and_congr_right fun _ => and_congr_right fun _ => ⟨fun all field group has before => ?_, fun all f mem => ?_⟩
  · exact all ⟨field, group⟩ ((mem_recipeChecks_iff r _).2 has) before
  · exact all f.field f.group ((mem_recipeChecks_iff r f).1 mem)

theorem rangeFailure_eq_none_iff (r : Recipe) :
    rangeFailure r = none ↔ ∀ field group, HasField r field group → FieldFits r field group := by
  rw [rangeFailure, firstFailure_eq_none_iff]
  constructor
  · intro all field group has
    obtain ⟨c, mem, named⟩ := List.mem_map.1 ((mem_recipeChecks_iff r ⟨field, group⟩).2 has)
    have fits := (recipeChecks_reads mem).1 (all c mem)
    rw [named] at fits
    exact fits
  · intro all c mem
    exact (recipeChecks_reads mem).2 (all _ _ ((mem_recipeChecks_iff r c.2).1 (List.mem_map_of_mem mem)))

/-- Every field of a recipe in its range, field by field. -/
theorem allFieldsFit_iff (r : Recipe) :
    (∀ field group, HasField r field group → FieldFits r field group) ↔
      (∀ field, 1 ≤ field → field ≤ 13 → FieldFits r field 0) ∧
        ∀ k g, r.groups[k]? = some g → ∀ field, 14 ≤ field → field ≤ 17 → FieldFits r field (k + 1) := by
  constructor
  · intro all
    refine ⟨fun field low high => all field 0 (.inl ⟨rfl, low, high⟩), fun k g held field low high => ?_⟩
    have inside := (List.getElem?_eq_some_iff.1 held).1
    exact all field (k + 1) (.inr ⟨by omega, inside, low, high⟩)
  · rintro ⟨own, groups⟩ field group (⟨rfl, low, high⟩ | ⟨first, inside, low, high⟩)
    · exact own field low high
    · have held := List.getElem?_eq_getElem (l := r.groups) (i := group - 1) (by omega)
      have fits := groups _ _ held field low high
      rwa [Nat.sub_add_cancel first] at fits

/-- Settles O45: the recipe passes with every field in range, and the first field that is not is named. -/
theorem rangeCheckPassesFieldsInRange : Obligations.RangeCheckPassesFieldsInRange := by
  unfold Obligations.RangeCheckPassesFieldsInRange
  refine ⟨fun r => ?_, rangeFailure_eq_some_iff⟩
  rw [rangeFailure_eq_none_iff, allFieldsFit_iff]
  have group : ∀ k g, r.groups[k]? = some g → ∀ P : SheetGroup → Prop, GroupFits r (k + 1) P ↔ P g := by
    intro k g held P
    rw [GroupFits, Nat.add_sub_cancel, held]
    simp
  constructor
  · rintro ⟨own, groups⟩
    obtain ⟨length, characters⟩ := own 1 (by omega) (by omega)
    refine ⟨length, characters, own 2 (by omega) (by omega), own 3 (by omega) (by omega), own 4 (by omega) (by omega),
      own 5 (by omega) (by omega), fun cut => ⟨own 6 (by omega) (by omega) cut, own 7 (by omega) (by omega) cut⟩,
      fun drill => ⟨own 8 (by omega) (by omega) drill, own 9 (by omega) (by omega) drill⟩, own 10 (by omega) (by omega),
      own 11 (by omega) (by omega), own 12 (by omega) (by omega), own 13 (by omega) (by omega), fun k g held => ?_⟩
    have fits := group k g held
    obtain ⟨place, number⟩ := (fits _).1 (groups k g held 14 (by omega) (by omega))
    obtain ⟨some_sheet, sheets⟩ := (fits _).1 (groups k g held 15 (by omega) (by omega))
    obtain ⟨low, high⟩ := (fits _).1 (groups k g held 16 (by omega) (by omega))
    exact ⟨place, number, some_sheet, sheets, low, high, (fits _).1 (groups k g held 17 (by omega) (by omega))⟩
  · rintro ⟨length, characters, edge, pitch, margin, style, cut, drill, capacity, sheets, target, count, groups⟩
    refine ⟨fun field low high => ?_, fun k g held field low high => ?_⟩
    · obtain rfl | rfl | rfl | rfl | rfl | rfl | rfl | rfl | rfl | rfl | rfl | rfl | rfl : field = 1 ∨ field = 2 ∨ field = 3 ∨
          field = 4 ∨ field = 5 ∨ field = 6 ∨ field = 7 ∨ field = 8 ∨ field = 9 ∨ field = 10 ∨ field = 11 ∨ field = 12 ∨
          field = 13 := by omega
      · exact ⟨length, characters⟩
      · exact edge
      · exact pitch
      · exact margin
      · exact style
      · exact fun is => (cut is).1
      · exact fun is => (cut is).2
      · exact fun is => (drill is).1
      · exact fun is => (drill is).2
      · exact capacity
      · exact sheets
      · exact target
      · exact count
    · have fits := group k g held
      obtain ⟨place, number, some_sheet, most, least, nominal, tolerance⟩ := groups k g held
      obtain rfl | rfl | rfl | rfl : field = 14 ∨ field = 15 ∨ field = 16 ∨ field = 17 := by omega
      · exact (fits _).2 ⟨place, number⟩
      · exact (fits _).2 ⟨some_sheet, most⟩
      · exact (fits _).2 ⟨least, nominal⟩
      · exact (fits _).2 tolerance

end Sys2Proof.Machine
end

/-! ### The plan computation, stage by stage (R57 to R74) -/

section
namespace Sys2Proof.Machine

/-! What the field ranges give the stages behind them (R56, R57). -/

theorem pitch_pos_of_range {r : Recipe} (range : rangeFailure r = none) : 0 < r.pitch := by
  obtain ⟨own, -⟩ := (allFieldsFit_iff r).1 ((rangeFailure_eq_none_iff r).1 range)
  obtain ⟨low, -⟩ : 400 ≤ r.pitch ∧ r.pitch ≤ 2000 := own 3 (by omega) (by omega)
  omega

theorem rowHoles_pos {d : Die} (fits : d.Fits) (r : Recipe) : 1 ≤ rowHoles r d := by
  obtain ⟨pins, -⟩ := fits
  exact Nat.le_min.2 ⟨Nat.le_add_left 1 _, by omega⟩

/-! The computation ends at the first stage that finds an error. -/

section
variable {r : Recipe} {die : Option Die} {d : Die} {table : PerStation Station} {n k0 : Nat}

theorem computePlan_of_sheets {e : PlanError} (range : rangeFailure r = none) (fails : sheetChecks r = some e) :
    computePlan r die table = .error (.plan e) := by
  simp only [computePlan, range, fails]

theorem computePlan_of_row {e : PlanError} (range : rangeFailure r = none) (sheets : sheetChecks r = none)
    (fails : placeRow r die = .error e) : computePlan r die table = .error (.plan e) := by
  simp only [computePlan, range, sheets, fails]

theorem computePlan_of_hanger {e : PlanError} (range : rangeFailure r = none) (sheets : sheetChecks r = none)
    (placed : placeRow r die = .ok (d, n, k0)) (fails : planHanger r n table = .error e) :
    computePlan r die table = .error (.plan e) := by
  simp only [computePlan, range, sheets, placed, fails]

theorem computePlan_of_ok {h : HangerPlan} (range : rangeFailure r = none) (sheets : sheetChecks r = none)
    (placed : placeRow r die = .ok (d, n, k0)) (hanger : planHanger r n table = .ok h) :
    computePlan r die table = .ok (buildPlan r d n k0 h) := by
  simp only [computePlan, range, sheets, placed, hanger]

end

/-! The sheet and lift checks (R58). -/

section
variable {r : Recipe} {die : Option Die} {table : PerStation Station}

theorem sheetChecks_of_list (fails : PlanFails r die table .sheetList) : sheetChecks r = some .sheetList :=
  if_pos fails

theorem sheetChecks_of_capacity (list : ¬PlanFails r die table .sheetList) (fails : PlanFails r die table .liftCapacity) :
    sheetChecks r = some .liftCapacity := by
  have list : ¬(r.sheetTotal < 2 ∨ Config.sheetLimit < r.sheetTotal) := list
  rw [sheetChecks, if_neg list, if_pos]
  simpa [PlanFails] using fails

theorem sheetChecks_eq_none (list : ¬PlanFails r die table .sheetList) (capacity : ¬PlanFails r die table .liftCapacity) :
    sheetChecks r = none := by
  have list : ¬(r.sheetTotal < 2 ∨ Config.sheetLimit < r.sheetTotal) := list
  rw [sheetChecks, if_neg list, if_neg]
  simpa [PlanFails] using capacity

end

/-! The placing of the row (R59 to R66). -/

section
variable {r : Recipe} {d : Die}

theorem placeRow_of_pitch (differs : r.pitch ≠ d.pitch) : placeRow r (some d) = .error .pitchMismatch :=
  if_pos differs

theorem placeRow_of_margin (pitch : r.pitch = d.pitch) (unusable : r.edge ≤ 2 * r.margin) :
    placeRow r (some d) = .error .margin := by
  have usable : usableLength r ≤ 0 := by
    unfold usableLength
    omega
  rw [placeRow, if_neg (Classical.not_not.2 pitch), if_pos usable]

theorem placeRow_of_few (pitch : r.pitch = d.pitch) (usable : 2 * r.margin < r.edge) (few : rowNatural r < 2) :
    placeRow r (some d) = .error .tooFewHoles := by
  have length : ¬usableLength r ≤ 0 := by
    unfold usableLength
    omega
  rw [placeRow, if_neg (Classical.not_not.2 pitch), if_neg length, naturalHoles_eq usable, if_pos (by omega)]

theorem placeRow_of_guide (pitch : r.pitch = d.pitch) (usable : 2 * r.margin < r.edge) (two : 2 ≤ rowNatural r)
    (none : firstPin r d (rowHoles r d) = none) : placeRow r (some d) = .error .guideRange := by
  have length : ¬usableLength r ≤ 0 := by
    unfold usableLength
    omega
  have holes : ¬naturalHoles r < 2 := by
    rw [naturalHoles_eq usable]
    omega
  simp only [placeRow, if_neg (Classical.not_not.2 pitch), if_neg length, if_neg holes, holeCount_eq d usable, none]

theorem placeRow_of_pin {k : Int} (pitch : r.pitch = d.pitch) (usable : 2 * r.margin < r.edge) (two : 2 ≤ rowNatural r)
    (pin : firstPin r d (rowHoles r d) = some k) : placeRow r (some d) = .ok (d, rowHoles r d, k.toNat) := by
  have length : ¬usableLength r ≤ 0 := by
    unfold usableLength
    omega
  have holes : ¬naturalHoles r < 2 := by
    rw [naturalHoles_eq usable]
    omega
  simp only [placeRow, if_neg (Classical.not_not.2 pitch), if_neg length, if_neg holes, holeCount_eq d usable, pin]

/-- There is a first pin exactly if some pin is allowed (R65). -/
theorem firstPin_eq_none_iff_allowed (usable : 2 * r.margin < r.edge) (some_hole : 1 ≤ rowHoles r d)
    (pitch : 0 < r.pitch) : firstPin r d (rowHoles r d) = none ↔ ∀ k, ¬AllowedPin r d k := by
  rw [firstPin_eq_none_iff]
  simp only [allowedPin_iff usable some_hole pitch]
  have low : 0 ≤ lowestPin r d (rowHoles r d) := Int.le_max_left ..
  constructor
  · intro apart k
    omega
  · intro none
    have lowest := none (lowestPin r d (rowHoles r d)).toNat
    omega

end

/-! The hanger, its gap and its segments (R67 to R71). -/

section
variable {r : Recipe} {d : Die} {table : PerStation Station} {n : Nat}

theorem rolePresent_iff (table : PerStation Station) (r : StationRole) :
    (!rolePresent table r) = true ↔ ∀ p, (table.get p).role ≠ .station r := by
  rw [← rolePresent_eq_false_iff, Bool.not_eq_true']

theorem planHanger_of_cut (cut : r.styleCode = 1) : planHanger r n table = planCut r n table := by
  rw [planHanger, (style_iff r).1.2 cut]

theorem planHanger_of_drill (drill : r.styleCode = 2) :
    planHanger r n table =
      if !rolePresent table .drill then .error .stationAbsent
      else .ok ⟨none, [segmentOf r n 0 n], none, some (r.drillX, r.drillY)⟩ := by
  rw [planHanger, (style_iff r).2.2 drill]

theorem planHanger_of_other (cut : r.styleCode ≠ 1) (drill : r.styleCode ≠ 2) :
    planHanger r n table = .ok ⟨none, [segmentOf r n 0 n], none, none⟩ := by
  have style : r.style = .none := by
    cases h : r.style with
    | none => rfl
    | cut => exact absurd ((style_iff r).1.1 h) cut
    | drill => exact absurd ((style_iff r).2.1 h) drill
  rw [planHanger, style]

theorem planCut_of_absent (absent : ∀ p, (table.get p).role ≠ .station .notch) :
    planCut r n table = .error .stationAbsent :=
  if_pos ((rolePresent_iff table .notch).2 absent)

theorem planCut_of_narrow (present : ¬∀ p, (table.get p).role ≠ .station .notch) (narrow : removedRun r n = none) :
    planCut r n table = .error .gapNarrow := by
  simp only [planCut, if_neg (mt (rolePresent_iff table .notch).1 present), narrow]

theorem planCut_of_short {first count : Nat} (present : ¬∀ p, (table.get p).role ≠ .station .notch)
    (run : removedRun r n = some (first, count)) (short : first < 2 ∨ n < first + count + 2) :
    planCut r n table = .error .segmentShort := by
  simp only [planCut, if_neg (mt (rolePresent_iff table .notch).1 present), run, if_pos short]

theorem planCut_of_run {first count : Nat} (present : ¬∀ p, (table.get p).role ≠ .station .notch)
    (run : removedRun r n = some (first, count)) (long : ¬(first < 2 ∨ n < first + count + 2)) :
    planCut r n table = .ok ⟨some (first, count),
      [segmentOf r n 0 first, segmentOf r n (first + count) (n - (first + count))],
      some (r.edge / 2, r.gapWidth), none⟩ := by
  simp only [planCut, if_neg (mt (rolePresent_iff table .notch).1 present), run, if_neg long]

theorem removedRun_eq_none_iff_holes (usable : 2 * r.margin < r.edge) (some_hole : 1 ≤ rowHoles r d) :
    removedRun r (rowHoles r d) = none ↔ ∀ i, ¬RemovedHole r d i := by
  simp only [removedRun_eq_none_iff, removedHole_iff usable some_hole, not_and, Bool.not_eq_true]

/-- The holes of the removed run are those that R68 removes. -/
theorem removedHole_iff_run {first count : Nat} (usable : 2 * r.margin < r.edge) (some_hole : 1 ≤ rowHoles r d)
    (run : removedRun r (rowHoles r d) = some (first, count)) (i : Nat) :
    RemovedHole r d i ↔ first ≤ i ∧ i < first + count :=
  (removedHole_iff usable some_hole i).trans ((removedRun_eq_some run).2.2 i)

/-- A segment is short exactly if a removed hole stands too near an end of the row (R70). -/
theorem short_iff_removedHole {first count : Nat} (usable : 2 * r.margin < r.edge) (some_hole : 1 ≤ rowHoles r d)
    (run : removedRun r (rowHoles r d) = some (first, count)) :
    (first < 2 ∨ rowHoles r d < first + count + 2) ↔
      ∃ i, RemovedHole r d i ∧ (i < 2 ∨ rowHoles r d ≤ i + 2) := by
  simp only [removedHole_iff_run usable some_hole run]
  obtain ⟨some_removed, -, -⟩ := removedRun_eq_some run
  constructor
  · rintro (before | behind)
    · exact ⟨first, by omega, .inl before⟩
    · exact ⟨first + count - 1, by omega, .inr (by omega)⟩
  · rintro ⟨i, within, before | behind⟩ <;> omega

end

/-! A recipe in range whose first stages find no error (R57). -/

/-- No condition of the plan computation fails before the error's. -/
def PlanFitsBefore (r : Recipe) (die : Option Die) (table : PerStation Station) (e : PlanError) : Prop :=
  ∀ before, planErrorByte before < planErrorByte e → ¬PlanFails r die table before

/-- The row stages find no error: the die's pitch, a usable length, two holes, an allowed pin. -/
structure RowPlaced (r : Recipe) (d : Die) (k : Int) : Prop where
  pitch : r.pitch = d.pitch
  usable : 2 * r.margin < r.edge
  two : 2 ≤ rowNatural r
  pin : firstPin r d (rowHoles r d) = some k

theorem RowPlaced.row {r : Recipe} {d : Die} {k : Int} (placed : RowPlaced r d k) :
    placeRow r (some d) = .ok (d, rowHoles r d, k.toNat) :=
  placeRow_of_pin placed.pitch placed.usable placed.two placed.pin

section
variable {r : Recipe} {die : Option Die} {table : PerStation Station} {e : PlanError}

theorem PlanFitsBefore.sheets (fits : PlanFitsBefore r die table e) (past : 2 < planErrorByte e) :
    sheetChecks r = none :=
  sheetChecks_eq_none (fits .sheetList (Nat.lt_trans (by decide) past)) (fits .liftCapacity past)

theorem PlanFitsBefore.some_die (fits : PlanFitsBefore r die table e) (past : 3 < planErrorByte e) : ∃ d, die = some d :=
  Option.ne_none_iff_exists'.1 (fits .dieAbsent past)

theorem PlanFitsBefore.pitch {d : Die} (fits : PlanFitsBefore r (some d) table e) (past : 4 < planErrorByte e) :
    r.pitch = d.pitch :=
  Classical.not_not.1 fun bad => fits .pitchMismatch past ⟨d, rfl, bad⟩

theorem PlanFitsBefore.usable (fits : PlanFitsBefore r die table e) (past : 5 < planErrorByte e) :
    2 * r.margin < r.edge :=
  Nat.lt_of_not_le (fits .margin past)

theorem PlanFitsBefore.two (fits : PlanFitsBefore r die table e) (past : 6 < planErrorByte e) : 2 ≤ rowNatural r :=
  Nat.le_of_not_lt (fits .tooFewHoles past)

theorem PlanFitsBefore.placed {d : Die} (fits : PlanFitsBefore r (some d) table e) (past : 7 < planErrorByte e)
    (allowed : d.Fits) (range : rangeFailure r = none) : ∃ k, RowPlaced r d k := by
  have usable := fits.usable (by omega)
  have some_pin : firstPin r d (rowHoles r d) ≠ none := fun none =>
    fits .guideRange past ⟨d, rfl,
      (firstPin_eq_none_iff_allowed usable (rowHoles_pos allowed r) (pitch_pos_of_range range)).1 none⟩
  obtain ⟨k, pin⟩ := Option.ne_none_iff_exists'.1 some_pin
  exact ⟨k, fits.pitch (by omega), usable, fits.two (by omega), pin⟩

end

end Sys2Proof.Machine
end

/-! ### The first plan error, and the geometry of a computed plan (R57 to R74) -/

section
namespace Sys2Proof.Machine

section
variable {r : Recipe} {die : Option Die} {table : PerStation Station}

theorem PlanFitsBefore.notch_present {e : PlanError} (fits : PlanFitsBefore r die table e) (past : 8 < planErrorByte e)
    (cut : r.styleCode = 1) : ¬∀ p, (table.get p).role ≠ .station .notch := fun absent =>
  fits .stationAbsent past (.inl ⟨cut, absent⟩)

/-- The computation ends with the plan error whose condition holds where none before it does. -/
theorem computePlan_of_fails {e : PlanError} (allowed : ∀ d, die = some d → d.Fits) (range : rangeFailure r = none)
    (fails : PlanFails r die table e) (fits : PlanFitsBefore r die table e) :
    computePlan r die table = .error (.plan e) := by
  cases e with
  | sheetList => exact computePlan_of_sheets range (sheetChecks_of_list fails)
  | liftCapacity => exact computePlan_of_sheets range (sheetChecks_of_capacity (fits .sheetList (by decide)) fails)
  | dieAbsent =>
    obtain rfl : die = none := fails
    exact computePlan_of_row range (fits.sheets (by decide)) rfl
  | pitchMismatch =>
    obtain ⟨d, rfl, differs⟩ := fails
    exact computePlan_of_row range (fits.sheets (by decide)) (placeRow_of_pitch differs)
  | margin =>
    obtain ⟨d, rfl⟩ := fits.some_die (by decide)
    exact computePlan_of_row range (fits.sheets (by decide)) (placeRow_of_margin (fits.pitch (by decide)) fails)
  | tooFewHoles =>
    obtain ⟨d, rfl⟩ := fits.some_die (by decide)
    exact computePlan_of_row range (fits.sheets (by decide))
      (placeRow_of_few (fits.pitch (by decide)) (fits.usable (by decide)) fails)
  | guideRange =>
    obtain ⟨d, rfl, none⟩ := fails
    have usable := fits.usable (by decide)
    exact computePlan_of_row range (fits.sheets (by decide))
      (placeRow_of_guide (fits.pitch (by decide)) usable (fits.two (by decide))
        ((firstPin_eq_none_iff_allowed usable (rowHoles_pos (allowed d rfl) r) (pitch_pos_of_range range)).2 none))
  | stationAbsent =>
    obtain ⟨d, rfl⟩ := fits.some_die (by decide)
    obtain ⟨k, placed⟩ := fits.placed (by decide) (allowed d rfl) range
    refine computePlan_of_hanger range (fits.sheets (by decide)) placed.row ?_
    obtain ⟨cut, absent⟩ | ⟨drill, absent⟩ := fails
    · rw [planHanger_of_cut cut, planCut_of_absent absent]
    · rw [planHanger_of_drill drill, if_pos ((rolePresent_iff table .drill).2 absent)]
  | gapNarrow =>
    obtain ⟨cut, d, rfl, none⟩ := fails
    obtain ⟨k, placed⟩ := fits.placed (by decide) (allowed d rfl) range
    refine computePlan_of_hanger range (fits.sheets (by decide)) placed.row ?_
    rw [planHanger_of_cut cut, planCut_of_narrow (fits.notch_present (by decide) cut)
      ((removedRun_eq_none_iff_holes placed.usable (rowHoles_pos (allowed d rfl) r)).2 none)]
  | segmentShort =>
    obtain ⟨cut, d, i, rfl, removed, near⟩ := fails
    obtain ⟨k, placed⟩ := fits.placed (by decide) (allowed d rfl) range
    refine computePlan_of_hanger range (fits.sheets (by decide)) placed.row ?_
    have some_hole := rowHoles_pos (allowed d rfl) r
    have some_run : removedRun r (rowHoles r d) ≠ none := fun none =>
      (removedRun_eq_none_iff_holes placed.usable some_hole).1 none i removed
    obtain ⟨⟨first, count⟩, run⟩ := Option.ne_none_iff_exists'.1 some_run
    rw [planHanger_of_cut cut, planCut_of_short (fits.notch_present (by decide) cut) run
      ((short_iff_removedHole placed.usable some_hole run).2 ⟨i, removed, near⟩)]

/-- A computation without an error has passed every stage (R57). -/
theorem computePlan_of_fits (allowed : ∀ d, die = some d → d.Fits) (range : rangeFailure r = none)
    (none : ∀ e, ¬PlanFails r die table e) : ∃ plan, computePlan r die table = .ok plan := by
  have fits : PlanFitsBefore r die table .segmentShort := fun before _ => none before
  obtain ⟨d, rfl⟩ := fits.some_die (by decide)
  have some_hole := rowHoles_pos (allowed d rfl) r
  obtain ⟨k, placed⟩ := fits.placed (by decide) (allowed d rfl) range
  suffices ∃ h, planHanger r (rowHoles r d) table = .ok h by
    obtain ⟨h, hanger⟩ := this
    exact ⟨_, computePlan_of_ok range (fits.sheets (by decide)) placed.row hanger⟩
  by_cases cut : r.styleCode = 1
  · have present := fits.notch_present (by decide) cut
    have some_run : removedRun r (rowHoles r d) ≠ .none := fun narrow =>
      none .gapNarrow ⟨cut, d, rfl, (removedRun_eq_none_iff_holes placed.usable some_hole).1 narrow⟩
    obtain ⟨⟨first, count⟩, run⟩ := Option.ne_none_iff_exists'.1 some_run
    have long : ¬(first < 2 ∨ rowHoles r d < first + count + 2) := fun short => by
      obtain ⟨i, removed, near⟩ := (short_iff_removedHole placed.usable some_hole run).1 short
      exact none .segmentShort ⟨cut, d, i, rfl, removed, near⟩
    exact ⟨_, (planHanger_of_cut cut).trans (planCut_of_run present run long)⟩
  by_cases drill : r.styleCode = 2
  · have present : ¬∀ p, (table.get p).role ≠ .station .drill := fun absent =>
      none .stationAbsent (.inr ⟨drill, absent⟩)
    exact ⟨_, (planHanger_of_drill drill).trans (if_neg (mt (rolePresent_iff table .drill).1 present))⟩
  · exact ⟨_, planHanger_of_other cut drill⟩

end

/-! What a plan was computed from. -/

theorem rowPlaced_of_placeRow {r : Recipe} {d die : Die} {n k0 : Nat} (placed : placeRow r (some d) = .ok (die, n, k0)) :
    ∃ k, RowPlaced r d k ∧ die = d ∧ n = rowHoles r d ∧ k0 = k.toNat := by
  by_cases pitch : r.pitch = d.pitch
  case neg =>
    rw [placeRow_of_pitch pitch] at placed
    cases placed
  by_cases usable : 2 * r.margin < r.edge
  case neg =>
    rw [placeRow_of_margin pitch (Nat.le_of_not_lt usable)] at placed
    cases placed
  by_cases two : 2 ≤ rowNatural r
  case neg =>
    rw [placeRow_of_few pitch usable (Nat.lt_of_not_le two)] at placed
    cases placed
  cases pin : firstPin r d (rowHoles r d) with
  | none =>
    rw [placeRow_of_guide pitch usable two pin] at placed
    cases placed
  | some k =>
    rw [placeRow_of_pin pitch usable two pin] at placed
    cases placed
    exact ⟨k, ⟨pitch, usable, two, pin⟩, rfl, rfl, rfl⟩

theorem computePlan_stages {r : Recipe} {d : Die} {table : PerStation Station} {plan : HolePlan}
    (computed : computePlan r (some d) table = .ok plan) :
    rangeFailure r = none ∧ ∃ k h, RowPlaced r d k ∧ planHanger r (rowHoles r d) table = .ok h ∧
      plan = buildPlan r d (rowHoles r d) k.toNat h := by
  unfold computePlan at computed
  cases range : rangeFailure r <;> simp only [range, reduceCtorEq] at computed
  cases sheets : sheetChecks r <;> simp only [sheets, reduceCtorEq] at computed
  cases row : placeRow r (some d) with
  | error e => simp only [row, reduceCtorEq] at computed
  | ok at_row =>
    obtain ⟨die, n, k0⟩ := at_row
    obtain ⟨k, placed, rfl, rfl, rfl⟩ := rowPlaced_of_placeRow row
    simp only [row] at computed
    cases hanger : planHanger r (rowHoles r die) table with
    | error e => simp only [hanger, reduceCtorEq] at computed
    | ok h =>
      simp only [hanger, Except.ok.injEq] at computed
      exact ⟨rfl, k, h, placed, rfl, computed.symm⟩

/-! The row of a computed plan (R60 to R66). -/

section
variable {r : Recipe} {d : Die} {k : Int}

/-- The first pin is allowed, and among the allowed ones the nearest to the centred pin, the lower of two. -/
theorem RowPlaced.pin_allowed (placed : RowPlaced r d k) (allowed : d.Fits) (pitch : 0 < r.pitch) :
    (k.toNat : Int) = k ∧ AllowedPin r d k.toNat ∧ ∀ j : Nat, AllowedPin r d j →
      (k - ((d.pins - rowHoles r d) / 2 : Nat)).natAbs ≤ ((j : Int) - ((d.pins - rowHoles r d) / 2 : Nat)).natAbs ∧
      (((j : Int) - ((d.pins - rowHoles r d) / 2 : Nat)).natAbs = (k - ((d.pins - rowHoles r d) / 2 : Nat)).natAbs →
        k.toNat ≤ j) := by
  obtain ⟨low, high, positive, nearest⟩ := firstPin_nearest (n := rowHoles r d) (Nat.min_le_right ..) placed.pin
  have within := allowedPin_iff placed.usable (rowHoles_pos allowed r) pitch
  have whole : (k.toNat : Int) = k := Int.toNat_of_nonneg positive
  refine ⟨whole, (within _).2 (by omega), fun j allowedJ => ?_⟩
  obtain ⟨lowJ, highJ⟩ := (within j).1 allowedJ
  obtain ⟨near, lower⟩ := nearest j lowJ highJ
  exact ⟨near, fun same => by have := lower same; omega⟩

theorem RowPlaced.guide (placed : RowPlaced r d k) (some_hole : 1 ≤ rowHoles r d)
    (pin : AllowedPin r d k.toNat) :
    ((guidePosition r d (rowHoles r d) k.toNat).toNat : Int) = rowGuide r d k.toNat := by
  have same : guidePosition r d (rowHoles r d) k.toNat = rowGuide r d k.toNat := by
    rw [guidePosition, rowGuide, leftMargin_eq placed.usable some_hole]
  rw [same]
  exact Int.toNat_of_nonneg pin.2.1

/-- The margins of the row (R63). -/
theorem RowPlaced.margins (placed : RowPlaced r d k) (some_hole : 1 ≤ rowHoles r d) :
    (rowHoles r d - 1) * r.pitch ≤ r.edge ∧ (leftMargin r (rowHoles r d)).toNat = rowMargin r d ∧
      (rightMargin r (rowHoles r d)).toNat = r.edge - (rowHoles r d - 1) * r.pitch - rowMargin r d ∧
      r.margin ≤ rowMargin r d := by
  have usable := placed.usable
  have inside := rowSpan_le r d
  have left := leftMargin_eq usable some_hole
  rw [rightMargin, left, span_eq some_hole, rowMargin]
  omega

theorem RowPlaced.clamped (placed : RowPlaced r d k) :
    decide ((d.pins : Int) < naturalHoles r) = decide (d.pins < rowNatural r) := by
  rw [naturalHoles_eq placed.usable]
  exact decide_eq_decide.2 Int.ofNat_lt

theorem RowPlaced.segment (placed : RowPlaced r d k) (some_hole : 1 ≤ rowHoles r d) (first count : Nat) :
    segmentOf r (rowHoles r d) first count = ⟨rowHole r d first, count⟩ := by
  rw [segmentOf, holePosition_eq placed.usable some_hole, Int.toNat_natCast]

end

/-! The hanger of a computed plan (R67 to R72, R74). -/

theorem planHanger_cut {r : Recipe} {d : Die} {k : Int} {table : PerStation Station} {h : HangerPlan}
    (placed : RowPlaced r d k) (some_hole : 1 ≤ rowHoles r d)
    (hanger : planHanger r (rowHoles r d) table = .ok h) (cut : r.styleCode = 1) :
    ∃ first count, h.removed = some (first, count) ∧ 1 ≤ count ∧
      (∀ i, RemovedHole r d i ↔ first ≤ i ∧ i < first + count) ∧ 2 ≤ first ∧ first + count + 2 ≤ rowHoles r d ∧
      h.segments = [⟨rowHole r d 0, first⟩, ⟨rowHole r d (first + count), rowHoles r d - (first + count)⟩] ∧
      h.notch = some (r.edge / 2, r.gapWidth) ∧ h.drill = none := by
  rw [planHanger_of_cut cut] at hanger
  by_cases absent : ∀ p, (table.get p).role ≠ .station .notch
  · rw [planCut_of_absent absent] at hanger
    cases hanger
  cases run : removedRun r (rowHoles r d) with
  | none =>
    rw [planCut_of_narrow absent run] at hanger
    cases hanger
  | some firstCount =>
    obtain ⟨first, count⟩ := firstCount
    by_cases short : first < 2 ∨ rowHoles r d < first + count + 2
    · rw [planCut_of_short absent run short] at hanger
      cases hanger
    · rw [planCut_of_run absent run short, placed.segment some_hole, placed.segment some_hole] at hanger
      cases hanger
      exact ⟨first, count, rfl, (removedRun_eq_some run).1, removedHole_iff_run placed.usable some_hole run, by omega,
        by omega, rfl, rfl, rfl⟩

theorem planHanger_whole {r : Recipe} {d : Die} {k : Int} {table : PerStation Station} {h : HangerPlan}
    (placed : RowPlaced r d k) (some_hole : 1 ≤ rowHoles r d)
    (hanger : planHanger r (rowHoles r d) table = .ok h) (other : r.styleCode ≠ 1) :
    h.removed = none ∧ h.segments = [⟨rowHole r d 0, rowHoles r d⟩] ∧ h.notch = none ∧
      h.drill = if r.styleCode = 2 then some (r.drillX, r.drillY) else none := by
  by_cases drill : r.styleCode = 2
  · rw [planHanger_of_drill drill, placed.segment some_hole] at hanger
    by_cases absent : (!rolePresent table .drill) = true
    · rw [if_pos absent] at hanger
      cases hanger
    · rw [if_neg absent] at hanger
      cases hanger
      exact ⟨rfl, rfl, rfl, (if_pos drill).symm⟩
  · rw [planHanger_of_other other drill, placed.segment some_hole] at hanger
    cases hanger
    exact ⟨rfl, rfl, rfl, (if_neg drill).symm⟩

/-- Settles O46: the stages' errors in order, and the record that a computation without an error builds. -/
theorem holePlanGeometry : Obligations.HolePlanGeometry := by
  unfold Obligations.HolePlanGeometry
  constructor
  · intro r die table allowed
    refine ⟨fun e fails => ?_, fun range => ⟨fun e fails fits => computePlan_of_fails allowed range fails fits,
      computePlan_of_fits allowed range⟩⟩
    simp only [computePlan, fails]
  · intro r d table plan allowed computed offCentre
    obtain ⟨range, k, h, placed, hanger, rfl⟩ := computePlan_stages computed
    have some_hole := rowHoles_pos allowed r
    obtain ⟨whole, pin, nearest⟩ := placed.pin_allowed allowed (pitch_pos_of_range range)
    obtain ⟨span, left, right, margin⟩ := placed.margins some_hole
    refine ⟨placed.usable, placed.pitch, placed.two, rfl, placed.clamped, span, left, ?_, Nat.le_trans margin (Nat.le_of_eq left.symm), pin,
      placed.guide some_hole pin, fun j allowedJ => ?_, planHanger_cut placed some_hole hanger,
      planHanger_whole placed some_hole hanger⟩
    · exact right.trans (by rw [← left]; rfl)
    · have near := nearest j allowedJ
      simp only [offCentre, buildPlan, whole]
      exact near

end Sys2Proof.Machine
end

/-! ### The chosen set of an edge (R105, R106) -/

section
namespace Sys2Proof.Machine

theorem candidateNearness_of_awaiting {x : SetRecord} {r : StationRole} {entry : Position}
    (travels : x.state = .travelling entry)
    (awaits : x.progress.get r = some .waiting ∨ x.progress.get r = some .passing) (e : Station) (p : Position) :
    candidateNearness e r p x = if edgeMiss p entry e.arrive ≤ e.tol then some (edgeMiss p entry e.arrive) else none := by
  obtain awaits | awaits := awaits <;> simp only [candidateNearness, travels, awaits]

theorem candidateNearness_eq_some_iff (e : Station) (r : StationRole) (p : Position) (x : SetRecord) (d : Nat) :
    candidateNearness e r p x = some d ↔ IsCandidate e r p x d := by
  constructor
  · intro near
    have awaiting : ∃ entry, x.state = .travelling entry ∧
        (x.progress.get r = some .waiting ∨ x.progress.get r = some .passing) := by
      unfold candidateNearness at near
      split at near
      next entry travels waits => exact ⟨entry, travels, .inl waits⟩
      next entry travels passes => exact ⟨entry, travels, .inr passes⟩
      next => cases near
    obtain ⟨entry, travels, awaits⟩ := awaiting
    rw [candidateNearness_of_awaiting travels awaits] at near
    split at near
    next within =>
      cases near
      exact ⟨entry, travels, awaits, rfl, within⟩
    next => cases near
  · rintro ⟨entry, travels, awaits, rfl, within⟩
    rw [candidateNearness_of_awaiting travels awaits]
    exact if_pos within

/-- What a search for the nearest candidate has found among the records of a list: none where there is none, otherwise
the nearest, the first of equally near ones. -/
def IsNearest (near : SetRecord → Option Nat) (queue : List SetRecord) : Option (SetRecord × Nat) → Prop
  | none => ∀ x ∈ queue, near x = none
  | some (x, d) => ∃ k : Nat, queue[k]? = some x ∧ near x = some d ∧
      ∀ (m : Nat) y d', queue[m]? = some y → near y = some d' → d ≤ d' ∧ (m < k → d < d')

/-- The record that the list is extended by, at its place. -/
theorem getElem?_concat_iff {α : Type} (l : List α) (z y : α) (m : Nat) :
    (l ++ [z])[m]? = some y ↔ l[m]? = some y ∨ m = l.length ∧ z = y := by
  rcases Nat.lt_trichotomy m l.length with before | rfl | behind
  · rw [List.getElem?_append_left before]
    simp [Nat.ne_of_lt before]
  · simp
  · rw [List.getElem?_eq_none (Nat.le_trans (Nat.le_of_eq List.length_append) behind),
      List.getElem?_eq_none (Nat.le_of_lt behind)]
    simp [Nat.ne_of_gt behind]

theorem IsNearest.concat {e : Station} {r : StationRole} {p : Position} {queue : List SetRecord}
    {best : Option (SetRecord × Nat)} (h : IsNearest (candidateNearness e r p) queue best) (z : SetRecord) :
    IsNearest (candidateNearness e r p) (queue ++ [z]) (nearerCandidate e r p best z) := by
  unfold nearerCandidate
  cases near : candidateNearness e r p z with
  | none =>
    cases best with
    | none =>
      intro x mem
      obtain mem | rfl := List.mem_append.1 mem |>.imp_right List.mem_singleton.1
      · exact h x mem
      · exact near
    | some found =>
      obtain ⟨x, d⟩ := found
      obtain ⟨k, held, own, least⟩ := h
      refine ⟨k, (getElem?_concat_iff ..).2 (.inl held), own, fun m y d' at_m candidate => ?_⟩
      obtain at_m | ⟨-, rfl⟩ := (getElem?_concat_iff ..).1 at_m
      · exact least m y d' at_m candidate
      · rw [near] at candidate
        cases candidate
  | some d =>
    have last : (queue ++ [z])[queue.length]? = some z := List.getElem?_concat_length
    cases best with
    | none =>
      refine ⟨queue.length, last, near, fun m y d' at_m candidate => ?_⟩
      obtain at_m | ⟨rfl, rfl⟩ := (getElem?_concat_iff ..).1 at_m
      · rw [h y (List.mem_of_getElem? at_m)] at candidate
        cases candidate
      · obtain rfl : d = d' := Option.some.inj (near.symm.trans candidate)
        exact ⟨Nat.le_refl d, fun before => absurd before (Nat.lt_irrefl _)⟩
    | some found =>
      obtain ⟨x, least⟩ := found
      obtain ⟨k, held, own, nearest⟩ := h
      have inside := (List.getElem?_eq_some_iff.1 held).1
      dsimp only
      split
      next nearer =>
        refine ⟨queue.length, last, near, fun m y d' at_m candidate => ?_⟩
        obtain at_m | ⟨rfl, rfl⟩ := (getElem?_concat_iff ..).1 at_m
        · have further := (nearest m y d' at_m candidate).1
          omega
        · obtain rfl : d = d' := Option.some.inj (near.symm.trans candidate)
          exact ⟨Nat.le_refl d, fun before => absurd before (Nat.lt_irrefl _)⟩
      next stays =>
        refine ⟨k, (getElem?_concat_iff ..).2 (.inl held), own, fun m y d' at_m candidate => ?_⟩
        obtain at_m | ⟨rfl, rfl⟩ := (getElem?_concat_iff ..).1 at_m
        · exact nearest m y d' at_m candidate
        · obtain rfl : d = d' := Option.some.inj (near.symm.trans candidate)
          omega

theorem IsNearest.foldl {e : Station} {r : StationRole} {p : Position} (rest : List SetRecord) : ∀ queue best,
    IsNearest (candidateNearness e r p) queue best →
      IsNearest (candidateNearness e r p) (queue ++ rest) (rest.foldl (nearerCandidate e r p) best) := by
  induction rest with
  | nil =>
    intro queue best h
    rw [List.append_nil]
    exact h
  | cons z rest ih =>
    intro queue best h
    have further := ih (queue ++ [z]) _ (h.concat z)
    rwa [List.append_assoc, List.singleton_append] at further

theorem isNearest_foldl (e : Station) (r : StationRole) (p : Position) (queue : List SetRecord) :
    IsNearest (candidateNearness e r p) queue (queue.foldl (nearerCandidate e r p) none) :=
  IsNearest.foldl queue [] none fun _ mem => absurd mem List.not_mem_nil

/-- Settles O48: what the walk over the queue has found at its end. -/
theorem chosenSetIsTheNearestCandidate : Obligations.ChosenSetIsTheNearestCandidate := by
  unfold Obligations.ChosenSetIsTheNearestCandidate
  intro queue e r p
  have nearest := isNearest_foldl e r p queue
  unfold chosenSet
  cases found : queue.foldl (nearerCandidate e r p) none with
  | none =>
    rw [found] at nearest
    rw [Option.map_none]
    refine ⟨⟨fun _ x mem d candidate => ?_, fun _ => rfl⟩, fun x chosen => absurd chosen.symm (Option.some_ne_none x)⟩
    rw [← candidateNearness_eq_some_iff, nearest x mem] at candidate
    cases candidate
  | some best =>
    obtain ⟨y, d⟩ := best
    rw [found] at nearest
    obtain ⟨k, held, own, least⟩ := nearest
    have candidate := (candidateNearness_eq_some_iff e r p y d).1 own
    rw [Option.map_some]
    refine ⟨⟨fun none => absurd none (Option.some_ne_none y), fun none =>
      absurd candidate (none y (List.mem_of_getElem? held) d)⟩, fun x chosen => ?_⟩
    obtain rfl : y = x := Option.some.inj chosen
    exact ⟨k, d, held, candidate, fun m z d' at_m other =>
      least m z d' at_m ((candidateNearness_eq_some_iff e r p z d').2 other)⟩

end Sys2Proof.Machine
end

/-! ### EDGE (R15, R100, R104 to R107, R109 to R115, R130, R170) -/

section
namespace Sys2Proof.Machine

theorem takeRequest_replied {α : Type} {p : Port} {kind : Byte} {parse : List Byte → Option α}
    {act : α → Position → State → Reply} {s : State} {f : Frame} {rest : List Frame} {a : α} (taking : s.Taking p f rest)
    (ofKind : f.kind = kind) (read : parse f.payload = some a)
    (unseen : act a f.capture (s.withoutFrame p rest) =
      ((act a f.capture s).1.withoutFrame p rest, (act a f.capture s).2)) :
    takeRequest p kind parse act s = .next ((act a f.capture s).1.reply p f rest (act a f.capture s).2) := by
  obtain ⟨k, payload, capture⟩ := f
  obtain rfl : k = kind := ofKind
  exact takeRequest_reply taking read unseen

section
variable {s : State} {p : StationPort} {r : StationRole} {lag : Nat} {capture : Position}

theorem edgeRequest_unmatched (role : (s.station p).role = .station r)
    (none : chosenSet s.tracker.queue (s.station p) r (capture - BitVec.ofNat 32 lag) = none) :
    edgeRequest p lag capture s = s.unmatchedEdge p r := by
  simp only [edgeRequest, role, Role.stationRole, none]

theorem edgeRequest_matched {x : SetRecord} (role : (s.station p).role = .station r)
    (chosen : chosenSet s.tracker.queue (s.station p) r (capture - BitVec.ofNat 32 lag) = some x) :
    edgeRequest p lag capture s = s.matchEdge p r x := by
  simp only [edgeRequest, role, Role.stationRole, chosen]

end

theorem Reply.withPorts_frame {a : Reply} {s : State} (unchanged : a.1.ports = s.ports) (p : Port) (rest : List Frame) :
    Reply.withPorts a (s.ports.set p { s.port p with buffer := rest }) = (a.1.withoutFrame p rest, a.2) := by
  rw [State.withoutFrame_eq, State.port, State.port, unchanged]
  rfl

theorem State.ports_matchEdge (s : State) (p : StationPort) (r : StationRole) (x : SetRecord) :
    (s.matchEdge p r x).1.ports = s.ports := by
  unfold State.matchEdge
  split <;> rfl

/-- An EDGE matched to a set (R106). -/
theorem exec_edge_matched {s : State} {p : StationPort} {f : Frame} {rest : List Frame} {lag : Nat} {r : StationRole}
    {x : SetRecord} (taking : s.Taking (.station p) f rest) (kind : f.kind = kindEdge) (payload : f.payload = be1 lag)
    (byte : lag < 256) (role : (s.station p).role = .station r)
    (chosen : chosenSet s.tracker.queue (s.station p) r (f.capture - BitVec.ofNat 32 lag) = some x) :
    exec (.edge p) s = .next ((s.matchEdge p r x).1.reply (.station p) f rest (s.matchEdge p r x).2) := by
  have taken := takeRequest_replied (act := edgeRequest p) taking kind (payload ▸ parseByte_be1 byte) (by
    rw [edgeRequest_matched (s := s.withoutFrame (.station p) rest) role chosen, edgeRequest_matched role chosen,
      State.withoutFrame_eq, matchEdge_withPorts, Reply.withPorts_frame (s.ports_matchEdge p r x)])
  rw [edgeRequest_matched role chosen] at taken
  exact taken

/-- Settles O50: the flag of the port and the frame's leaving are changes of one port. -/
theorem edgeWithoutCandidateIsUnmatched : Obligations.EdgeWithoutCandidateIsUnmatched := by
  unfold Obligations.EdgeWithoutCandidateIsUnmatched
  intro s p f rest lag r taking kind payload byte role none
  have taken := takeRequest_replied (act := edgeRequest p) taking kind (payload ▸ parseByte_be1 byte) (by
    rw [edgeRequest_unmatched (s := s.withoutFrame (.station p) rest) role none, edgeRequest_unmatched role none,
      State.unmatchedEdge, State.unmatchedEdge, State.withoutFrame, State.withoutFrame, State.updatePort_updatePort,
      State.updatePort_updatePort])
  rw [edgeRequest_unmatched role none] at taken
  exact taken

theorem State.matchEdge_passing {s : State} {r : StationRole} {x : SetRecord}
    (passes : x.progress.get r = some .passing) (p : StationPort) :
    s.matchEdge p r x =
      ((s.clearMiss p).updateSet x.number fun y => y.setProgress r .passed, ⟨.pass, be2 x.number⟩) :=
  if_pos passes

theorem State.matchEdge_waiting {s : State} {r : StationRole} {x : SetRecord}
    (waits : x.progress.get r = some .waiting) (p : StationPort) :
    s.matchEdge p r x =
      ((s.clearMiss p).updateSet x.number fun _ => (s.workFor r x).1, .work x.number (s.workFor r x).2) :=
  if_neg (by simp [waits])

/-! The work records by role (R110 to R115, R130). -/

theorem punchMatch_skip {x : SetRecord} (limited : x.checks.liftOverload = true ∨ x.checks.liftLimit = true)
    (plan : HolePlan) : punchMatch plan x = (x.setProgress .punch .skipped, .skip) :=
  if_pos (Bool.or_eq_true_iff.2 limited)

theorem punchMatch_punch {x : SetRecord} {lifts : List Lift} (overload : x.checks.liftOverload = false)
    (limit : x.checks.liftLimit = false) (lifted : x.liftPlan = some lifts) (plan : HolePlan) :
    punchMatch plan x = (x.setProgress .punch .atStation, .punch plan.guide plan.pins lifts) := by
  simp only [punchMatch, overload, limit, lifted, Bool.or_self, Bool.false_eq_true, if_false, Option.getD_some]

theorem punchIsDone_iff (x : SetRecord) : punchIsDone x = true ↔ ∃ o, x.progress.punch = some (.done o) := by
  unfold punchIsDone
  split
  next o done => simp [done]
  next other => simpa using fun o done => other o done

theorem binderMatch_bind {x : SetRecord} (done : ∃ o, x.progress.punch = some (.done o)) (plan : HolePlan)
    (recipe : Recipe) :
    binderMatch plan recipe x = (x.setProgress .binder .atStation, .bind plan.segments (recipe.style == .cut)) :=
  if_pos ((punchIsDone_iff x).2 done)

theorem binderMatch_withhold {x : SetRecord} (undone : ∀ o, x.progress.punch ≠ some (.done o)) (plan : HolePlan)
    (recipe : Recipe) :
    binderMatch plan recipe x = ((x.setProgress .binder .withheld).addCheck .bindFault, .withhold) :=
  if_neg (mt (punchIsDone_iff x).1 (not_exists.2 undone))

theorem beBool_cut (r : Recipe) : beBool (r.style == .cut) = be1 (if r.styleCode = 1 then 1 else 0) := by
  by_cases cut : r.styleCode = 1
  · rw [(style_iff r).1.2 cut, if_pos cut]
    rfl
  · have other : (r.style == .cut) = false := beq_eq_false_iff_ne.2 (mt (style_iff r).1.1 cut)
    rw [other, if_neg cut]
    rfl

/-- Settles O49: the work of the chosen set by its role. -/
theorem edgeIsMatched : Obligations.EdgeIsMatched := by
  unfold Obligations.EdgeIsMatched
  intro s p f rest lag r x taking kind payload byte role chosen cleared becomes plan recipe
  rw [exec_edge_matched taking kind payload byte role chosen]
  refine ⟨fun passes => ?_, fun waits => ?_⟩
  · rw [State.matchEdge_passing passes]
    rfl
  rw [State.matchEdge_waiting waits]
  refine ⟨?_, ?_, ?_, ?_, ?_, ?_, ?_⟩
  · rintro rfl limited
    rw [State.workFor, punchMatch_skip limited]
    rfl
  · rintro rfl overload limit lifts lifted
    rw [State.workFor, punchMatch_punch overload limit lifted]
    rfl
  · rintro rfl position width notch
    rw [State.workFor, notchMatch, notch]
    rfl
  · rintro rfl dx dy drill
    rw [State.workFor, drillMatch, drill]
    rfl
  · rintro rfl done
    rw [State.workFor, binderMatch_bind done, ← beBool_cut]
    rfl
  · rintro rfl undone
    rw [State.workFor, binderMatch_withhold undone]
    rfl
  · rintro rfl
    rfl

end Sys2Proof.Machine
end

/-! ### The stations' reports (R117 to R121, R131) -/

section
namespace Sys2Proof.Machine

/-! The tests of R118 on a report, each as the ones before it pass. -/

section
variable {s : State} {p : StationPort} {valid : StationRole → Bool} {n : Nat} {x : SetRecord} {r : StationRole}

theorem State.testReport_unknown (unknown : s.findSet n = none) (act : SetRecord → StationRole → Reply) :
    s.testReport p valid n act = (s, ⟨.noSet, be2 n⟩) := by
  simp only [State.testReport, unknown]
  rfl

theorem State.testReport_otherRole (found : s.findSet n = some x)
    (other : ∀ r, (s.station p).role = .station r → valid r = false) (act : SetRecord → StationRole → Reply) :
    s.testReport p valid n act = (s, ⟨.role, be2 n⟩) := by
  simp only [State.testReport, found]
  cases role : (s.station p).role with
  | none | collator => rfl
  | station r =>
    simp only [Role.stationRole, other r role, Bool.not_false, if_true]
    rfl

theorem State.testReport_notArrived (found : s.findSet n = some x) (role : (s.station p).role = .station r)
    (fits : valid r = true) (ahead : x.progress.get r = some .waiting ∨ x.progress.get r = some .passing)
    (act : SetRecord → StationRole → Reply) : s.testReport p valid n act = (s, ⟨.notArrived, be2 n⟩) := by
  obtain entry | entry := ahead <;>
    simp only [State.testReport, found, role, Role.stationRole, fits, entry, Bool.not_true, Bool.false_eq_true, if_false,
      Answer.report]

theorem State.testReport_late (found : s.findSet n = some x) (role : (s.station p).role = .station r)
    (fits : valid r = true) (late : x.progress.get r = some .unconfirmed) (act : SetRecord → StationRole → Reply) :
    s.testReport p valid n act = (s, ⟨.late, be2 n⟩) := by
  simp only [State.testReport, found, role, Role.stationRole, fits, late, Bool.not_true, Bool.false_eq_true, if_false,
    Answer.report]

theorem State.testReport_duplicate (found : s.findSet n = some x) (role : (s.station p).role = .station r)
    (fits : valid r = true)
    (finished : (∃ o, x.progress.get r = some (.done o)) ∨ (∃ k, x.progress.get r = some (.fault k)) ∨
      x.progress.get r = some .skipped ∨ x.progress.get r = some .withheld ∨ x.progress.get r = some .passed ∨
      x.progress.get r = some .missed) (act : SetRecord → StationRole → Reply) :
    s.testReport p valid n act = (s, ⟨.duplicate, be2 n⟩) := by
  obtain ⟨o, entry⟩ | ⟨k, entry⟩ | entry | entry | entry | entry := finished <;>
    simp only [State.testReport, found, role, Role.stationRole, fits, entry, Bool.not_true, Bool.false_eq_true, if_false,
      Answer.report]

theorem State.testReport_atStation (found : s.findSet n = some x) (role : (s.station p).role = .station r)
    (fits : valid r = true) (entry : x.progress.get r = some .atStation) (act : SetRecord → StationRole → Reply) :
    s.testReport p valid n act = act x r := by
  simp only [State.testReport, found, role, Role.stationRole, fits, entry, Bool.not_true, Bool.false_eq_true, if_false]

end

/-! The four reports as commands. -/

section
variable {s : State} {p : StationPort} {f : Frame} {rest : List Frame} {n k : Nat}

theorem exec_lift (taking : s.Taking (.station p) f rest) (kind : f.kind = kindLift)
    (payload : f.payload = be2 n ++ be1 k) (number : n < 65536) (byte : k < 256) :
    exec (.lift p) s = .next ((liftRequest p (n, k) f.capture s).1.reply (.station p) f rest
      (liftRequest p (n, k) f.capture s).2) :=
  takeRequest_parsed taking kind (payload ▸ parseSetByte_bytes number byte) (liftRequest_withPorts p (n, k) f.capture)

theorem exec_done (taking : s.Taking (.station p) f rest) (kind : f.kind = kindDone) (payload : f.payload = be2 n)
    (number : n < 65536) :
    exec (.done p) s = .next ((doneRequest p n f.capture s).1.reply (.station p) f rest
      (doneRequest p n f.capture s).2) :=
  takeRequest_parsed taking kind (payload ▸ parseSet_be2 number) (doneRequest_withPorts p n f.capture)

theorem exec_fault (taking : s.Taking (.station p) f rest) (kind : f.kind = kindFault)
    (payload : f.payload = be2 n ++ be1 k) (number : n < 65536) (byte : k < 256) :
    exec (.fault p) s = .next ((faultRequest p (n, k) f.capture s).1.reply (.station p) f rest
      (faultRequest p (n, k) f.capture s).2) :=
  takeRequest_parsed taking kind (payload ▸ parseSetByte_bytes number byte) (faultRequest_withPorts p (n, k) f.capture)

theorem exec_diverted (taking : s.Taking (.station p) f rest) (kind : f.kind = kindDiverted)
    (payload : f.payload = be2 n ++ be1 k) (number : n < 65536) (byte : k < 256) :
    exec (.diverted p) s = .next ((divertedRequest p (n, k) f.capture s).1.reply (.station p) f rest
      (divertedRequest p (n, k) f.capture s).2) :=
  takeRequest_parsed taking kind (payload ▸ parseSetByte_bytes number byte)
    (divertedRequest_withPorts p (n, k) f.capture)

end

theorem SetRecord.countLift_eq (y : SetRecord) :
    y.countLift = { y with
      liftsDone := y.liftsDone + 1
      progress := if some (y.liftsDone + 1) = y.liftPlan.map List.length then
        { y.progress with punch := some (.done none) } else y.progress } := by
  have last : y.liftsDone + 1 = y.liftCount ↔ some (y.liftsDone + 1) = y.liftPlan.map List.length := by
    unfold SetRecord.liftCount
    cases y.liftPlan <;> simp
  by_cases ends : y.liftsDone + 1 = y.liftCount
  · rw [if_pos (last.1 ends)]
    exact if_pos ends
  · rw [if_neg (mt last.2 ends)]
    exact if_neg ends

theorem liftRequest_atStation {s : State} {p : StationPort} {n : Nat} {x : SetRecord}
    (role : (s.station p).role = .station .punch) (found : s.findSet n = some x)
    (atStation : x.progress.punch = some .atStation) (index : Nat) (c : Position) :
    liftRequest p (n, index) c s =
      if index = x.liftsDone then (s.updateSet n SetRecord.countLift, ⟨.ok, be2 n ++ be1 (x.liftsDone + 1)⟩)
      else (s, ⟨.order, be2 n ++ be1 x.liftsDone⟩) :=
  State.testReport_atStation (valid := fun r => r == .punch) found role rfl atStation _

theorem divertedRequest_atStation {s : State} {p : StationPort} {n : Nat} {x : SetRecord}
    (role : (s.station p).role = .station .gate) (found : s.findSet n = some x)
    (atStation : x.progress.gate = some .atStation) (o : GateOutlet) (c : Position) :
    divertedRequest p (n, gateOutletByte o) c s = (s.divertSet n x o, ⟨.ok, be2 n⟩) := by
  rw [divertedRequest, outletOfByte_gateOutletByte]
  exact State.testReport_atStation (valid := fun r => r == .gate) found role rfl atStation _

/-- Settles O52: the order test, and the lift that is counted. -/
theorem liftsAreCountedInOrder : Obligations.LiftsAreCountedInOrder := by
  unfold Obligations.LiftsAreCountedInOrder
  intro s p f rest n index x lifts taking kind payload number byte role found atStation planned
  rw [exec_lift taking kind payload number byte, liftRequest_atStation role found atStation]
  refine ⟨fun other => ?_, fun next => ?_⟩
  · rw [if_neg other]
  · have counted : SetRecord.countLift = _ := funext SetRecord.countLift_eq
    rw [if_pos next, counted]

/-- Settles O53: both reports past the tests of R118. -/
theorem doneAndFaultFinishTheWork : Obligations.DoneAndFaultFinishTheWork := by
  unfold Obligations.DoneAndFaultFinishTheWork
  constructor
  · intro s p f rest n r x taking kind payload number role finishes found atStation
    have valid : doneValid r = true := by obtain rfl | rfl | rfl := finishes <;> rfl
    rw [exec_done taking kind payload number, doneRequest, State.testReport_atStation found role valid atStation,
      Answer.report]
  · intro s p f rest n code r x taking kind payload number nonzero byte role works found atStation check
    have valid : faultValid r = true := by
      cases r with
      | gate => exact absurd rfl works
      | punch | notch | drill | binder => rfl
    have named : faultCheck r = check := by
      cases r with
      | gate => exact absurd rfl works
      | punch | notch | drill | binder => rfl
    rw [exec_fault taking kind payload number byte, faultRequest, if_neg (Nat.ne_of_gt nonzero),
      State.testReport_atStation found role valid atStation, Answer.report, named]

/-- Settles O54: the outlet that the gate reports, against the commanded one. -/
theorem divertedRecordsTheTakenOutlet : Obligations.DivertedRecordsTheTakenOutlet := by
  unfold Obligations.DivertedRecordsTheTakenOutlet
  intro s p f rest n o commanded x taking kind payload number role found atStation ordered t
  have byte : gateOutletByte o < 256 := by cases o <;> decide
  rw [exec_diverted taking kind payload number byte, divertedRequest_atStation role found atStation, State.divertSet,
    ordered]
  refine ⟨?_, fun differs => ?_⟩
  · rintro rfl
    rw [if_pos rfl]
    rfl
  · rw [if_neg (fun same => differs (Option.some.inj same).symm)]
    rfl

end Sys2Proof.Machine
end

/-! ### The order of a report's tests (R117, R118) -/

section
namespace Sys2Proof.Machine

/-- The last byte of a report is out of its range: a FAULT code of 0, a DIVERTED outlet that is none (R117). -/
def ReportOutOfRange (kind : Byte) (more : List Byte) : Prop :=
  (kind = kindFault ∧ more = be1 0) ∨ (kind = kindDiverted ∧ more ≠ be1 1 ∧ more ≠ be1 2 ∧ more ≠ be1 3)

/-- A report command on a taken frame: RANGE field 2 out of range, otherwise the tests of R118 for the roles of its kind. -/
def IsReport (c : Instr) (s : State) (p : StationPort) (f : Frame) (rest : List Frame) (n : Nat) (more : List Byte) :
    Prop :=
  (ReportOutOfRange f.kind more → exec c s = .next (s.reply (.station p) f rest (.range 2 0))) ∧
    (¬ReportOutOfRange f.kind more → ∃ valid act, (∀ r, valid r = true ↔ ReportValid f.kind r) ∧
      exec c s = .next ((s.testReport p valid n act).1.reply (.station p) f rest (s.testReport p valid n act).2))

theorem reportValid_lift (r : StationRole) : (r == .punch) = true ↔ ReportValid 0x06 r := by
  simp [ReportValid]

theorem reportValid_done (r : StationRole) : doneValid r = true ↔ ReportValid 0x07 r := by
  cases r <;> simp [ReportValid, doneValid]

theorem reportValid_fault (r : StationRole) : faultValid r = true ↔ ReportValid 0x08 r := by
  cases r <;> simp [ReportValid, faultValid]

theorem reportValid_diverted (r : StationRole) : (r == .gate) = true ↔ ReportValid 0x09 r := by
  simp [ReportValid]

theorem eq_be1_of_length_one {bs : List Byte} (one : bs.length = 1) : ∃ k, k < 256 ∧ bs = be1 k := by
  obtain ⟨b, rfl⟩ := List.length_eq_one_iff.1 one
  exact ⟨b.toNat, b.isLt, by rw [be1, BitVec.ofNat_toNat, BitVec.setWidth_eq]⟩

theorem be1_inj {j k : Nat} (hj : j < 256) (hk : k < 256) : be1 j = be1 k ↔ j = k := by
  constructor
  · intro same
    rw [← fromBytes_be1 hj, same, fromBytes_be1 hk]
  · exact congrArg be1

section
variable {s : State} {p : StationPort} {f : Frame} {rest : List Frame} {n k : Nat} {more : List Byte}

theorem isReport_lift (taking : s.Taking (.station p) f rest) (kind : f.kind = kindLift)
    (payload : f.payload = be2 n ++ be1 k) (number : n < 65536) (byte : k < 256) :
    IsReport (.lift p) s p f rest n (be1 k) := by
  have within : ¬ReportOutOfRange f.kind (be1 k) := by
    rw [kind]
    simp [ReportOutOfRange]
  refine ⟨fun outside => absurd outside within, fun _ => ⟨_, _, ?_, exec_lift taking kind payload number byte⟩⟩
  rw [kind]
  exact reportValid_lift

theorem isReport_done (taking : s.Taking (.station p) f rest) (kind : f.kind = kindDone) (payload : f.payload = be2 n)
    (number : n < 65536) : IsReport (.done p) s p f rest n [] := by
  have within : ¬ReportOutOfRange f.kind [] := by
    rw [kind]
    simp [ReportOutOfRange]
  refine ⟨fun outside => absurd outside within, fun _ => ⟨_, _, ?_, exec_done taking kind payload number⟩⟩
  rw [kind]
  exact reportValid_done

theorem isReport_fault (taking : s.Taking (.station p) f rest) (kind : f.kind = kindFault)
    (payload : f.payload = be2 n ++ be1 k) (number : n < 65536) (byte : k < 256) :
    IsReport (.fault p) s p f rest n (be1 k) := by
  have range : ReportOutOfRange f.kind (be1 k) ↔ k = 0 := by
    rw [kind]
    simp [ReportOutOfRange, be1_inj byte]
  rw [IsReport, range, exec_fault taking kind payload number byte]
  refine ⟨fun zero => ?_, fun nonzero => ?_⟩
  · rw [faultRequest, if_pos zero]
  · have tested : ∃ act, faultRequest p (n, k) f.capture s = s.testReport p faultValid n act := ⟨_, if_neg nonzero⟩
    obtain ⟨act, tested⟩ := tested
    exact ⟨faultValid, act, kind ▸ reportValid_fault, by rw [tested]⟩

theorem isReport_diverted (taking : s.Taking (.station p) f rest) (kind : f.kind = kindDiverted)
    (payload : f.payload = be2 n ++ be1 k) (number : n < 65536) (byte : k < 256) :
    IsReport (.diverted p) s p f rest n (be1 k) := by
  have range : ReportOutOfRange f.kind (be1 k) ↔ k ≠ 1 ∧ k ≠ 2 ∧ k ≠ 3 := by
    rw [kind]
    simp [ReportOutOfRange, be1_inj byte]
  rw [IsReport, range, exec_diverted taking kind payload number byte]
  refine ⟨fun outside => ?_, fun within => ?_⟩
  · simp only [divertedRequest, outletOfByte_outside (n := k) (by omega)]
  · obtain ⟨o, named⟩ : ∃ o, outletOfByte k = some o := by
      obtain rfl | rfl | rfl : k = 1 ∨ k = 2 ∨ k = 3 := by omega
      all_goals exact ⟨_, rfl⟩
    have tested : ∃ act, divertedRequest p (n, k) f.capture s = s.testReport p (fun r => r == .gate) n act := by
      refine ⟨fun x _ => (s.divertSet n x o, .report .ok n), ?_⟩
      simp only [divertedRequest, named]
    obtain ⟨act, tested⟩ := tested
    exact ⟨fun r => r == .gate, act, kind ▸ reportValid_diverted, by rw [tested]⟩

end

/-- Each of the four report commands, on a frame of its kind and length, is a report. -/
theorem isReport_of_listed {s : State} {p : StationPort} {c : Instr} {f : Frame} {rest : List Frame} {n : Nat}
    {more : List Byte} (taking : s.Taking (.station p) f rest)
    (listed : c ∈ [Instr.lift p, Instr.done p, Instr.fault p, Instr.diverted p])
    (request : requestOf c = some (.station p, f.kind)) (payload : f.payload = be2 n ++ more) (number : n < 65536)
    (fits : lengthFits f.kind f.payload = true) : IsReport c s p f rest n more := by
  have kindOf : ∀ k : Byte, requestOf c = some (.station p, k) → f.kind = k := fun k own => by
    rw [own] at request
    exact (Prod.mk.inj (Option.some.inj request)).2.symm
  simp only [List.mem_cons, List.not_mem_nil, or_false] at listed
  rw [payload] at fits
  have oneByte : 2 + more.length = 3 → more.length = 1 := by omega
  obtain rfl | rfl | rfl | rfl := listed
  · have kind := kindOf kindLift rfl
    rw [kind] at fits
    obtain ⟨k, byte, rfl⟩ := eq_be1_of_length_one (oneByte (by simpa [lengthFits] using fits))
    exact isReport_lift taking kind payload number byte
  · have kind := kindOf kindDone rfl
    rw [kind] at fits
    obtain rfl : more = [] := by simpa [lengthFits] using fits
    exact isReport_done taking kind (by rw [payload, List.append_nil]) number
  · have kind := kindOf kindFault rfl
    rw [kind] at fits
    obtain ⟨k, byte, rfl⟩ := eq_be1_of_length_one (oneByte (by simpa [lengthFits] using fits))
    exact isReport_fault taking kind payload number byte
  · have kind := kindOf kindDiverted rfl
    rw [kind] at fits
    obtain ⟨k, byte, rfl⟩ := eq_be1_of_length_one (oneByte (by simpa [lengthFits] using fits))
    exact isReport_diverted taking kind payload number byte

/-- Settles O51: whatever its kind, a report in range goes through the tests of R118. -/
theorem reportsAreTestedInOrder : Obligations.ReportsAreTestedInOrder := by
  unfold Obligations.ReportsAreTestedInOrder
  intro s p c f rest n more taking listed request payload number fits outOfRange
  obtain ⟨refused, tested⟩ := isReport_of_listed taking listed request payload number fits
  refine ⟨refused, fun within => ?_⟩
  obtain ⟨valid, act, validates, whole⟩ := tested within
  rw [whole]
  refine ⟨fun unknown => ?_, fun x found => ⟨fun other => ?_, fun r role fits => ⟨fun ahead => ?_, fun late => ?_,
    fun finished => ?_⟩⟩⟩
  · rw [State.testReport_unknown unknown]
  · rw [State.testReport_otherRole found fun r role => Bool.eq_false_iff.2 (mt (validates r).1 (other r role))]
  · rw [State.testReport_notArrived found role ((validates r).2 fits) ahead]
  · rw [State.testReport_late found role ((validates r).2 fits) late]
  · rw [State.testReport_duplicate found role ((validates r).2 fits) finished]

end Sys2Proof.Machine
end
